-- ==== Sys2Proof/Word.lean ====
section
/-! DEFINITION. The words and byte strings of the CORE block (spec/40_primitives.md R85, spec/20_memory.md R43, R44). -/

namespace Sys2Proof

/-- A byte, 8 bits numbered 7 (most significant) down to 0 (R11, R44). -/
abbrev Byte := BitVec 8

/-- A word, an unsigned 32-bit number (R12, R85). -/
abbrev Word := BitVec 32

/-- A command frame or a response frame: a byte string whose length the transport gives (R60, R70). -/
abbrev Frame := List Byte

/-- One message block; R44 gives it exactly 64 bytes, which `wellFormed` checks. -/
abbrev Block := List Byte

/-- `add32`, addition modulo 2^32: the only arithmetic operation of either core (R86). -/
abbrev add32 (x y : Word) : Word := x + y

end Sys2Proof
end

