-- ==== Sys2Proof/Config.lean ====
section
/-! DEFINITION. What is fixed for the block (R9, R62) and the values the spec leaves open (R10, R42, spec/93_implementation_defined.md I7 to I10).

Every `opaque` constant here has no body: no proof can see a value of it, so a claim holds for every value.
The last `Nat` argument but one, or the only one, is the number of the draw, read from `State.draws`. -/

namespace Sys2Proof

/-- The two cores (R4, R62). -/
inductive Alg where
  | sha1
  | sha256
deriving DecidableEq, Repr, Inhabited

/-- `NW`, the number of state words of a core (R9, R62). -/
def Alg.nw : Alg → Nat
  | .sha1 => 5
  | .sha256 => 8

/-- `NR`, the number of rounds per block of a core (R9, R62). -/
def Alg.nr : Alg → Nat
  | .sha1 => 80
  | .sha256 => 64

/-- `H_RESET[c]` (R10, R42): word `i` of the state file of core `c` after the reset that is draw `n`.
Free value, notes/assumptions/1.md. -/
opaque Config.hReset : (c : Alg) → (n : Nat) → (i : Nat) → Word

/-- Word `i` of the working variables of core `c` where R28 leaves them unspecified, at draw `n`.
Free value, notes/assumptions/2.md. -/
opaque Config.freeWork : (c : Alg) → (n : Nat) → (i : Nat) → Word

/-- Entry `i` of the schedule of core `c` where R30 and R42 leave it unspecified, at draw `n`.
Free value, notes/assumptions/2.md. -/
opaque Config.freeSchedule : (c : Alg) → (n : Nat) → (i : Nat) → Word

/-- The sequencer field `alg` while `busy = 0` (R31, I10), at draw `n`. Free value, notes/assumptions/3.md. -/
opaque Config.freeAlg : (n : Nat) → Alg

/-- The sequencer field `j` while `busy = 0` (R42, I10), at draw `n`. Free value, notes/assumptions/3.md. -/
opaque Config.freeIndex : (n : Nat) → Nat

end Sys2Proof
end

