-- ==== Sys2Proof/Syntax.lean ====
section
/-! DEFINITION. The commands of the block, one constructor per row of spec/opcode_table.json (R63, R64, R66 to R68). -/

namespace Sys2Proof

/-- The four operations, the `OP` field of the opcode byte (R63). -/
inductive Op where
  | init
  | ldst
  | comp
  | rdst
deriving DecidableEq, Repr

/-- A command with its operand: a vector of words for `LDST` (R66), a sequence of blocks for `COMP` (R67), none for `INIT` and `RDST` (R68).
The lengths the operands must have are `wellFormed`'s. -/
inductive Instr where
  /-- `SHA1.INIT` (R121). -/
  | sha1Init
  /-- `SHA1.LDST S` (R122). -/
  | sha1Ldst (S : List Word)
  /-- `SHA1.COMP blocks` (R123). -/
  | sha1Comp (Bs : List Block)
  /-- `SHA1.RDST` (R124). -/
  | sha1Rdst
  /-- `SHA256.INIT` (R151). -/
  | sha256Init
  /-- `SHA256.LDST S` (R152). -/
  | sha256Ldst (S : List Word)
  /-- `SHA256.COMP blocks` (R153). -/
  | sha256Comp (Bs : List Block)
  /-- `SHA256.RDST` (R154). -/
  | sha256Rdst
deriving DecidableEq, Repr

/-- The core a command addresses (R62, R64). -/
def Instr.alg : Instr → Alg
  | .sha1Init => .sha1
  | .sha1Ldst _ => .sha1
  | .sha1Comp _ => .sha1
  | .sha1Rdst => .sha1
  | .sha256Init => .sha256
  | .sha256Ldst _ => .sha256
  | .sha256Comp _ => .sha256
  | .sha256Rdst => .sha256

/-- The operation of a command (R63, R64). -/
def Instr.op : Instr → Op
  | .sha1Init => .init
  | .sha1Ldst _ => .ldst
  | .sha1Comp _ => .comp
  | .sha1Rdst => .rdst
  | .sha256Init => .init
  | .sha256Ldst _ => .ldst
  | .sha256Comp _ => .comp
  | .sha256Rdst => .rdst

end Sys2Proof
end

