-- ==== Sys2Proof/WellFormed.lean ====
section
/-! DEFINITION. The lengths the operands of a command must have (R65 to R67, spec/30_encoding.md). -/

namespace Sys2Proof

/-- Every block of a sequence has exactly 64 bytes (R44, R67). -/
def wholeBlocks (Bs : List Block) : Bool :=
  Bs.all fun B => B.length == 64

/-- A command whose operand has the length R65 requires: `NW` words for `LDST`, whole blocks for `COMP`. -/
def wellFormed : Instr → Bool
  | .sha1Init => true
  | .sha1Ldst S => S.length == Alg.sha1.nw
  | .sha1Comp Bs => wholeBlocks Bs
  | .sha1Rdst => true
  | .sha256Init => true
  | .sha256Ldst S => S.length == Alg.sha256.nw
  | .sha256Comp Bs => wholeBlocks Bs
  | .sha256Rdst => true

end Sys2Proof
end

