-- ==== Sys2Proof/Machine/Operands.lean ====
section
/-! DEFINITION. How words and blocks are cut out of frame bytes and put into them (R18, R44 to R48, R66, R67, R100).
The block has no addressable memory (R18, R43, R54): these byte strings are all the data spaces there are. -/

namespace Sys2Proof

/-- Byte `k` of a byte string; 0 past its end, where no rule reads (notes/assumptions/9.md). -/
def byteAt (P : List Byte) (k : Nat) : Byte :=
  P.getD k 0

/-- `MemRead(addr, n)` on the payload `P`: the byte at the lowest offset is the most significant (R18, R46). -/
def memRead (P : List Byte) (addr n : Nat) : Nat :=
  (List.range n).foldl (fun v k => v * 256 + (byteAt P (addr + k)).toNat) 0

/-- `MemRead(addr, 4)` as a word (R46). -/
def memReadWord (P : List Byte) (addr : Nat) : Word :=
  BitVec.ofNat 32 (memRead P addr 4)

/-- Store one byte at offset `a` of the response data being built (R47).
A gap before `a` would be filled with 0; no rule makes one (R47: `Q` has no holes; notes/assumptions/9.md). -/
def putByte (Q : List Byte) (a : Nat) (b : Byte) : List Byte :=
  if a < Q.length then Q.set a b else Q ++ List.replicate (a - Q.length) 0 ++ [b]

/-- `MemWrite(addr, n, v)` on the response data `Q`: `Q[addr+k] <- v[8(n-k)-1 : 8(n-k-1)]` (R18, R47). -/
def memWrite (Q : List Byte) (addr n v : Nat) : List Byte :=
  (List.range n).foldl (fun Q k => putByte Q (addr + k) (BitVec.ofNat 8 (v / 256 ^ (n - k - 1)))) Q

/-- `BE32(x)`, the four bytes of a word, most significant first (R100). -/
def be32 (x : Word) : List Byte :=
  [x.extractLsb' 24 8, x.extractLsb' 16 8, x.extractLsb' 8 8, x.extractLsb' 0 8]

/-- `FromBE32([b0, b1, b2, b3])` (R100). -/
def fromBE32 (b0 b1 b2 b3 : Byte) : Word :=
  b0 ++ b1 ++ b2 ++ b3

/-- The operand of `LDST`: `S[i] = MemRead(4i, 4)` for `i` from 0 to `nw - 1` (R45, R66). -/
def ldstOperand (nw : Nat) (P : List Byte) : List Word :=
  (List.range nw).map fun i => memReadWord P (4 * i)

/-- The operand of `COMP`: `B_j = P[64j..64j+63]` for `j` from 0 to `len(P)/64 - 1` (R44, R67). -/
def compOperand (P : List Byte) : List Block :=
  (List.range (P.length / 64)).map fun j => (P.drop (64 * j)).take 64

/-- Word `i` of a block, `FromBE32(B[4i..4i+3])` (R48, R111, R141). -/
def blockWord (B : Block) (i : Nat) : Word :=
  fromBE32 (byteAt B (4 * i)) (byteAt B (4 * i + 1)) (byteAt B (4 * i + 2)) (byteAt B (4 * i + 3))

/-- The data part of an `RDST` response: `MemWrite(4i, 4, H[i])` for each word in index order (R45, R124, R154). -/
def rdstData (H : List Word) : List Byte :=
  (List.range H.length).foldl (fun Q i => memWrite Q (4 * i) 4 (H.getD i 0).toNat) []

end Sys2Proof
end

