-- ==== Sys2Proof/Decode.lean ====
section
/-! DEFINITION. The decoder, total on byte strings and rejecting by name, and the encoder (R60 to R69, R73, R77, spec/30_encoding.md). -/

namespace Sys2Proof

/-- Why a frame is no command (R69): the decoder's three rejections. -/
inductive Rejection where
  /-- Empty frame, reserved `ALG` or reserved `OP` (R69, R73). -/
  | illegal
  /-- `INIT` or `RDST` with a payload, `LDST` with a payload that is not `4*NW` bytes (R65, R69). -/
  | badLength (c : Alg) (o : Op)
  /-- `COMP` with a payload that is not a whole number of blocks (R65, R69). -/
  | badBlockLength (c : Alg)
deriving DecidableEq, Repr

/-- The outcome of decoding a frame (R69). -/
inductive Decoded where
  | ok (i : Instr)
  | rejected (r : Rejection)
deriving DecidableEq, Repr

/-- The `ALG` field (R62); every other value is reserved. -/
def algOf (f : BitVec 4) : Option Alg :=
  match f.toNat with
  | 1 => some .sha1
  | 2 => some .sha256
  | _ => none

/-- The `OP` field (R63); every other value is reserved. -/
def opOf (f : BitVec 4) : Option Op :=
  match f.toNat with
  | 0 => some .init
  | 1 => some .ldst
  | 2 => some .comp
  | 3 => some .rdst
  | _ => none

/-- The length check and the operand of an identified command (the last four lines of R69). -/
def decodePayload (c : Alg) (o : Op) (P : List Byte) : Decoded :=
  match c, o with
  | .sha1, .init => if P.length = 0 then .ok .sha1Init else .rejected (.badLength .sha1 .init)
  | .sha1, .ldst =>
    if P.length = 4 * Alg.sha1.nw then .ok (.sha1Ldst (ldstOperand Alg.sha1.nw P)) else .rejected (.badLength .sha1 .ldst)
  | .sha1, .comp => if P.length % 64 = 0 then .ok (.sha1Comp (compOperand P)) else .rejected (.badBlockLength .sha1)
  | .sha1, .rdst => if P.length = 0 then .ok .sha1Rdst else .rejected (.badLength .sha1 .rdst)
  | .sha256, .init => if P.length = 0 then .ok .sha256Init else .rejected (.badLength .sha256 .init)
  | .sha256, .ldst =>
    if P.length = 4 * Alg.sha256.nw then .ok (.sha256Ldst (ldstOperand Alg.sha256.nw P)) else .rejected (.badLength .sha256 .ldst)
  | .sha256, .comp => if P.length % 64 = 0 then .ok (.sha256Comp (compOperand P)) else .rejected (.badBlockLength .sha256)
  | .sha256, .rdst => if P.length = 0 then .ok .sha256Rdst else .rejected (.badLength .sha256 .rdst)

/-- `decode(F)` (R69): the opcode is checked before the length, so a reserved opcode with any payload is `illegal` (R178). -/
def decode : Frame → Decoded
  | [] => .rejected .illegal
  | b :: P =>
    match algOf (b.extractLsb' 4 4), opOf (b.extractLsb' 0 4) with
    | some c, some o => decodePayload c o P
    | _, _ => .rejected .illegal

/-- `opc(c, op)`, the opcode byte (R64, R77). -/
def opcode (c : Alg) (o : Op) : Byte :=
  let hi : Byte := match c with
    | .sha1 => 0x10
    | .sha256 => 0x20
  let lo : Byte := match o with
    | .init => 0
    | .ldst => 1
    | .comp => 2
    | .rdst => 3
  hi + lo

/-- `encode(x)` (R77). -/
def encode : Instr → Frame
  | .sha1Init => [opcode .sha1 .init]
  | .sha1Ldst S => opcode .sha1 .ldst :: S.flatMap be32
  | .sha1Comp Bs => opcode .sha1 .comp :: Bs.flatten
  | .sha1Rdst => [opcode .sha1 .rdst]
  | .sha256Init => [opcode .sha256 .init]
  | .sha256Ldst S => opcode .sha256 .ldst :: S.flatMap be32
  | .sha256Comp Bs => opcode .sha256 .comp :: Bs.flatten
  | .sha256Rdst => [opcode .sha256 .rdst]

/-- How many zero bytes follow the bytes `b :: P` of a table word so that the frame has a length R65 allows:
the shortest one that holds them (notes/assumptions/8.md). -/
def tablePadding (b : Byte) (P : List Byte) : Nat :=
  match algOf (b.extractLsb' 4 4), opOf (b.extractLsb' 0 4) with
  | some c, some .ldst => 4 * c.nw - P.length
  | some _, some .comp => (64 - P.length % 64) % 64
  | _, _ => 0

/-- The frame of an opcode-table word: byte `k` is bits `8k+7..8k` of `w`, zero operand bytes after `nbits`. -/
def tableFrame (nbits w : Nat) : Frame :=
  match (List.range ((nbits + 7) / 8)).map fun k => BitVec.ofNat 8 (w / 256 ^ k) with
  | [] => []
  | b :: P => b :: (P ++ List.replicate (tablePadding b P) 0)

/-- The command the decoder reads from an opcode-table word. -/
def decodeTableWord (nbits w : Nat) : Option Instr :=
  match decode (tableFrame nbits w) with
  | .ok i => some i
  | .rejected _ => none

end Sys2Proof
end

