-- ==== Sys2Proof/Machine/Flags.lean ====
section
/-! DEFINITION. The block has no flags and no condition codes (R34); what stands in their place is the status byte of a
response (R71) and the three errors it reports (R170 to R174). -/

namespace Sys2Proof.Machine

/-- The three errors, and no others (R170, R174). -/
inductive Error where
  /-- A `COMP` payload that is not a whole number of blocks (R171). -/
  | invalidBlockLength
  /-- An empty frame or a reserved opcode byte (R172). -/
  | invalidOpcode
  /-- An `INIT` or `RDST` with a payload, an `LDST` with the wrong number of bytes (R173). -/
  | invalidOperandLength
deriving DecidableEq, Repr

/-- The status byte `OK` (R71). -/
def statusOk : Byte := 0x00

/-- The status byte of an error (R71). -/
def Error.status : Error → Byte
  | .invalidBlockLength => 0x01
  | .invalidOpcode => 0x02
  | .invalidOperandLength => 0x03

/-- The error that answers a frame the decoder rejects (the last paragraph of R69). -/
def errorOf : Rejection → Error
  | .illegal => .invalidOpcode
  | .badLength _ _ => .invalidOperandLength
  | .badBlockLength _ => .invalidBlockLength

end Sys2Proof.Machine
end

