-- ==== Sys2Proof/Machine/State.lean ====
section
/-! DEFINITION. The state of the CORE block (spec/10_state.md R20 to R42), its faults and refusals, and the state after reset. -/

namespace Sys2Proof.Machine

/-- The working variables `a` to `e` of core SHA1 (R26). -/
structure Work1 where
  a : Word
  b : Word
  c : Word
  d : Word
  e : Word
deriving DecidableEq, Repr

/-- The working variables `a` to `h` of core SHA256 (R27), registers of their own. -/
structure Work2 where
  a : Word
  b : Word
  c : Word
  d : Word
  e : Word
  f : Word
  g : Word
  h : Word
deriving DecidableEq, Repr

/-- The per-block state machine of both cores (R31). -/
inductive Phase where
  | awaitingBlock
  | processingRound (t : Nat)
  | blockComplete
deriving DecidableEq, Repr

/-- How much of a valid `COMP` one model step does (R33, R119; notes/assumptions/4.md). The model's own, not the spec's. -/
inductive Grain where
  /-- The whole command, START to DONE: the big-step reading R33 calls exact. -/
  | command
  /-- One step of the machine of R119 and R149: START, LOAD, ROUND, FOLD or DONE. -/
  | phase
deriving DecidableEq, Repr

/-- Everything the spec gives the block, then the outside world at its port (notes/assumptions/11.md), then the model's own
two fields. -/
structure State where
  /-- `H1[0..4]`, the state file of core SHA1 (R20). -/
  h1 : Vector Word 5
  /-- `H2[0..7]`, the state file of core SHA256 (R21). -/
  h2 : Vector Word 8
  /-- Working variables of core SHA1 (R26, R28). -/
  v1 : Work1
  /-- Working variables of core SHA256 (R27, R28). -/
  v2 : Work2
  /-- `W1[0..79]`, the schedule of core SHA1 (R30). -/
  w1 : Vector Word 80
  /-- `W2[0..63]`, the schedule of core SHA256 (R30). -/
  w2 : Vector Word 64
  /-- Sequencer: a command is being executed (R31). -/
  busy : Bool
  /-- Sequencer: the core it addresses, meaningful while `busy` (R31). -/
  alg : Alg
  /-- Sequencer: the per-block state machine, with the round index `t` (R31). -/
  phase : Phase
  /-- Sequencer: the index of the next block (R31). -/
  j : Nat
  /-- The payload of the `COMP` in execution as the blocks `B_0` to `B_{nb-1}` (R44, R59, R67); empty when idle. -/
  blocks : List Block
  /-- The frames the host offers at the port, in the order it sends them (R56, R60); held there while `busy` (R200). -/
  port : List Frame
  /-- The response frames sent since the model's start, in order (R41, R70). -/
  responses : List Frame
  /-- The platform's RESETs still to come (R195): the first strikes after that many more model steps, each later one that
  many steps after the one before it; empty, none is coming (notes/assumptions/5.md). -/
  resets : List Nat
  /-- The model's own: the granularity of a step (notes/assumptions/4.md). -/
  grain : Grain
  /-- The model's own: how many free values have been drawn (notes/assumptions/1.md to 3.md). -/
  draws : Nat
deriving DecidableEq, Repr

/-- Why a step faults. The spec has no fault outcome (R174: every error is a response and the block carries on). -/
inductive Fault where
  /-- Raised by the sequencer alone, in a state outside the ranges R31 gives `phase` and `j`, where no step of R119 is
  enabled (notes/assumptions/14.md). Safe: no step from a state inside the ranges reaches one (`SequencerLegal`,
  Sys2Proof/Safety.lean). -/
  | noStepEnabled
deriving DecidableEq, Repr

/-- Why a step is refused. -/
inductive Refusal where
  /-- Raised by `exec` for a command that has no meaning yet; no arm does. Safe. -/
  | notModelled (mnemonic : String)
deriving DecidableEq, Repr

/-- `H_RESET[SHA1]` at draw `n` (R42). -/
def resetH1 (n : Nat) : Vector Word 5 :=
  Vector.ofFn fun i => Config.hReset .sha1 n i.val

/-- `H_RESET[SHA256]` at draw `n` (R42). -/
def resetH2 (n : Nat) : Vector Word 8 :=
  Vector.ofFn fun i => Config.hReset .sha256 n i.val

/-- Unspecified working variables of core SHA1 (R28). -/
def freeWork1 (n : Nat) : Work1 :=
  ⟨Config.freeWork .sha1 n 0, Config.freeWork .sha1 n 1, Config.freeWork .sha1 n 2, Config.freeWork .sha1 n 3,
    Config.freeWork .sha1 n 4⟩

/-- Unspecified working variables of core SHA256 (R28). -/
def freeWork2 (n : Nat) : Work2 :=
  ⟨Config.freeWork .sha256 n 0, Config.freeWork .sha256 n 1, Config.freeWork .sha256 n 2, Config.freeWork .sha256 n 3,
    Config.freeWork .sha256 n 4, Config.freeWork .sha256 n 5, Config.freeWork .sha256 n 6, Config.freeWork .sha256 n 7⟩

/-- An unspecified schedule of core SHA1 (R30). -/
def freeSchedule1 (n : Nat) : Vector Word 80 :=
  Vector.ofFn fun i => Config.freeSchedule .sha1 n i.val

/-- An unspecified schedule of core SHA256 (R30). -/
def freeSchedule2 (n : Nat) : Vector Word 64 :=
  Vector.ofFn fun i => Config.freeSchedule .sha256 n i.val

/-- The state right after reset (R42, R196): the sequencer idle, every other register the free value of draw 0,
nothing offered at the port and nothing sent. -/
def State.reset : State where
  h1 := resetH1 0
  h2 := resetH2 0
  v1 := freeWork1 0
  v2 := freeWork2 0
  w1 := freeSchedule1 0
  w2 := freeSchedule2 0
  busy := false
  alg := Config.freeAlg 0
  phase := .awaitingBlock
  j := Config.freeIndex 0
  blocks := []
  port := []
  responses := []
  resets := []
  grain := .command
  draws := 1

end Sys2Proof.Machine
end

