-- ==== Sys2Proof/Machine/Ops.lean ====
section
/-! DEFINITION. The operations on the state that the commands, the sequencer and RESET share. -/

namespace Sys2Proof.Machine

/-- Read element `i` of a register file or table; 0 past its end, where no rule reads (R14, R16; notes/assumptions/9.md). -/
def readReg {n : Nat} (X : Vector Word n) (i : Nat) : Word :=
  X.getD i 0

/-- `X[i] <- v` (R16); past the end, where no rule writes, nothing changes (notes/assumptions/9.md). -/
def writeReg {n : Nat} (X : Vector Word n) (i : Nat) (v : Word) : Vector Word n :=
  X.setIfInBounds i v

/-- A register file loaded whole from the operand `S` of `LDST`: `H[i] <- S[i]` (R22, R122, R152). -/
def loadFile (n : Nat) (S : List Word) : Vector Word n :=
  Vector.ofFn fun i => S.getD i.val 0

/-- Send the response frame `R` (R70). -/
def respond (R : Frame) (s : State) : State :=
  { s with responses := s.responses ++ [R] }

/-- TAKING AN EXCEPTION, `raise <Error>` (R19, R175, R176): the response is the status byte of the error alone (R72), and
nothing else changes: no cause, no address and no opcode is saved, there is no handler and no mode.
There is no return from it, because nothing was entered (R177). -/
def raise (e : Error) (s : State) : State :=
  respond [e.status] s

/-- The `START` step (R119, R149): the command is accepted and the sequencer stands before its first block. -/
def startComp (c : Alg) (Bs : List Block) (s : State) : State :=
  { s with busy := true, alg := c, j := 0, phase := .awaitingBlock, blocks := Bs }

/-- The `DONE` step (R119, R149): the response `[0x00]`, the sequencer idle, the frame forgotten (R59).
The fields `alg` and `j` mean nothing while idle and take free values (I10; notes/assumptions/3.md). -/
def doneComp (s : State) : State :=
  respond [statusOk]
    { s with
      busy := false
      alg := Config.freeAlg s.draws
      phase := .awaitingBlock
      j := Config.freeIndex s.draws
      blocks := []
      draws := s.draws + 1 }

/-- `a` to `e` and `W1` after the fold of a block: unspecified (R28, R30; notes/assumptions/2.md). -/
def leaveWork1 (s : State) : State :=
  { s with v1 := freeWork1 s.draws, w1 := freeSchedule1 s.draws, draws := s.draws + 1 }

/-- `a` to `h` and `W2` after the fold of a block: unspecified (R28, R30; notes/assumptions/2.md). -/
def leaveWork2 (s : State) : State :=
  { s with v2 := freeWork2 s.draws, w2 := freeSchedule2 s.draws, draws := s.draws + 1 }

/-- The transients of core SHA1 after `n` blocks: each fold leaves them unspecified, and with no block nothing uses them. -/
def leaveBlocks1 (n : Nat) (s : State) : State :=
  match n with
  | 0 => s
  | k + 1 => { s with v1 := freeWork1 (s.draws + k), w1 := freeSchedule1 (s.draws + k), draws := s.draws + k + 1 }

/-- The transients of core SHA256 after `n` blocks. -/
def leaveBlocks2 (n : Nat) (s : State) : State :=
  match n with
  | 0 => s
  | k + 1 => { s with v2 := freeWork2 (s.draws + k), w2 := freeSchedule2 (s.draws + k), draws := s.draws + k + 1 }

/-- The RESET event (R195 to R197): the state of R42 with the free values of a new draw. A command in execution is
abandoned and no response is sent for it. Frames the host has not yet had accepted stay at the port (notes/assumptions/5.md). -/
def takeReset (s : State) : State :=
  { s with
    h1 := resetH1 s.draws
    h2 := resetH2 s.draws
    v1 := freeWork1 s.draws
    v2 := freeWork2 s.draws
    w1 := freeSchedule1 s.draws
    w2 := freeSchedule2 s.draws
    busy := false
    alg := Config.freeAlg s.draws
    phase := .awaitingBlock
    j := Config.freeIndex s.draws
    blocks := []
    resets := s.resets.tail
    draws := s.draws + 1 }

end Sys2Proof.Machine
end

