-- ==== Sys2Proof/Machine/Primitives.lean ====
section
/-! DEFINITION. The word primitives and logical functions (spec/40_primitives.md R86 to R99). `add32` is in Sys2Proof/Word.lean. -/

namespace Sys2Proof.Machine

/-- `rotl(x, n) = ((x * 2^n) mod 2^32) + floor(x / 2^(32-n))`, for `0 < n < 32` (R88). -/
def rotl (x : Word) (n : Nat) : Word :=
  (x <<< n) + (x >>> (32 - n))

/-- `rotr(x, n) = floor(x / 2^n) + ((x mod 2^n) * 2^(32-n))`, for `0 < n < 32` (R89). -/
def rotr (x : Word) (n : Nat) : Word :=
  (x >>> n) + (x <<< (32 - n))

/-- `shr(x, n) = floor(x / 2^n)`, the logical shift (R90). -/
def shr (x : Word) (n : Nat) : Word :=
  x >>> n

/-- "choose" (R92), for both cores. -/
def ch (x y z : Word) : Word :=
  z ^^^ (x &&& (y ^^^ z))

/-- "parity" (R93). -/
def parity (x y z : Word) : Word :=
  x ^^^ y ^^^ z

/-- "majority" (R94), for both cores. -/
def maj (x y z : Word) : Word :=
  (x &&& y) ^^^ (x &&& z) ^^^ (y &&& z)

/-- `f1(t, x, y, z)`, the SHA-1 round function of round `t`, chosen by the stage `floor(t/20)` (R95). -/
def f1 (t : Nat) (x y z : Word) : Word :=
  match t / 20 with
  | 0 => ch x y z
  | 1 => parity x y z
  | 2 => maj x y z
  | _ => parity x y z

/-- The SHA-1 round constant of round `t`, `K1[floor(t/20)]` (R95, R115). -/
def stageConstant (t : Nat) : Word :=
  readReg k1 (t / 20)

/-- `BigSigma0`, the source's `S0` (R96). -/
def bigSigma0 (x : Word) : Word :=
  rotr x 2 ^^^ rotr x 13 ^^^ rotr x 22

/-- `BigSigma1`, the source's `S1` (R97). -/
def bigSigma1 (x : Word) : Word :=
  rotr x 6 ^^^ rotr x 11 ^^^ rotr x 25

/-- `SmallSigma0`, the source's `s0`; its third term is a shift (R98). -/
def smallSigma0 (x : Word) : Word :=
  rotr x 7 ^^^ rotr x 18 ^^^ shr x 3

/-- `SmallSigma1`, the source's `s1`; its third term is a shift (R99). -/
def smallSigma1 (x : Word) : Word :=
  rotr x 17 ^^^ rotr x 19 ^^^ shr x 10

end Sys2Proof.Machine
end

