-- ==== Sys2Proof/Machine/Sha1.lean ====
section
/-! DEFINITION. Core SHA1: its compression function and the meanings of its four commands (spec/41_sha1.md). -/

namespace Sys2Proof.Machine

/-- `W[i] <- FromBE32(B[4i..4i+3])` for `i` from 0 to 15 (R111). -/
def decodeBlock1 (B : Block) (W : Vector Word 80) : Vector Word 80 :=
  (List.range 16).foldl (fun W i => writeReg W i (blockWord B i)) W

/-- `W[t] <- rotl(W[t-3] xor W[t-8] xor W[t-14] xor W[t-16], 1)` (R112). -/
def extend1 (W : Vector Word 80) (t : Nat) : Vector Word 80 :=
  writeReg W t (rotl (readReg W (t - 3) ^^^ readReg W (t - 8) ^^^ readReg W (t - 14) ^^^ readReg W (t - 16)) 1)

/-- The whole schedule of a block, `W[0..15]` decoded and `W[16..79]` in increasing order (R111, R112).
Every entry is written before it is read, so what the local array holds first does not matter. -/
def schedule1 (B : Block) : Vector Word 80 :=
  (List.range' 16 64).foldl extend1 (decodeBlock1 B (Vector.replicate 80 0))

/-- `(a, b, c, d, e) <- (H[0], H[1], H[2], H[3], H[4])` (R113). -/
def seed1 (H : Vector Word 5) : Work1 :=
  ⟨H[0], H[1], H[2], H[3], H[4]⟩

/-- Round `t` (R114). -/
def round1 (W : Vector Word 80) (v : Work1) (t : Nat) : Work1 :=
  let temp := add32 (add32 (add32 (add32 v.e (rotl v.a 5)) (f1 t v.b v.c v.d)) (readReg W t)) (stageConstant t)
  { a := temp, b := v.a, c := rotl v.b 30, d := v.c, e := v.d }

/-- Rounds 0 to `n - 1` in order (R115). -/
def rounds1 (W : Vector Word 80) (v : Work1) (n : Nat) : Work1 :=
  (List.range n).foldl (round1 W) v

/-- The fold (R116). -/
def fold1 (H : Vector Word 5) (v : Work1) : Vector Word 5 :=
  #v[add32 H[0] v.a, add32 H[1] v.b, add32 H[2] v.c, add32 H[3] v.d, add32 H[4] v.e]

/-- `SHA1_BLOCK(H, B)` (R117): the one value of `H1` after a block, however an implementation groups the rounds (R120). -/
def sha1Block (H : Vector Word 5) (B : Block) : Vector Word 5 :=
  fold1 H (rounds1 (schedule1 B) (seed1 H) 80)

/-- `SHA1_COMPRESS(H, [B_0, ..., B_{nb-1}])` (R118). -/
def sha1Compress (H : Vector Word 5) (Bs : List Block) : Vector Word 5 :=
  Bs.foldl sha1Block H

/-- `SHA1.INIT` (R121). -/
def execSha1Init (s : State) : Host.Outcome State Fault Refusal :=
  .next (respond [statusOk] { s with h1 := iv1 })

/-- `SHA1.LDST S` (R122); a vector of another length, which no frame decodes to, is rejected (notes/assumptions/6.md). -/
def execSha1Ldst (S : List Word) (s : State) : Host.Outcome State Fault Refusal :=
  if S.length = 5 then .next (respond [statusOk] { s with h1 := loadFile 5 S }) else .next (raise .invalidOperandLength s)

/-- `SHA1.COMP blocks`, START to DONE in one step (R33, R51, R123): the length check comes before any change. -/
def execSha1Comp (Bs : List Block) (s : State) : Host.Outcome State Fault Refusal :=
  if wholeBlocks Bs then .next (doneComp { leaveBlocks1 Bs.length s with h1 := sha1Compress s.h1 Bs })
  else .next (raise .invalidBlockLength s)

/-- `SHA1.RDST` (R124). -/
def execSha1Rdst (s : State) : Host.Outcome State Fault Refusal :=
  .next (respond (statusOk :: rdstData s.h1.toList) s)

/-- `LOAD` of core SHA1 for the block `B` (R119). -/
def loadSha1 (B : Block) (s : State) : State :=
  { s with w1 := decodeBlock1 B s.w1, v1 := seed1 s.h1, phase := .processingRound 0 }

/-- `ROUND` of core SHA1: `W[t]` for `t >= 16`, then round `t` (R119, R127). -/
def roundSha1 (t : Nat) (s : State) : State :=
  let W := if 16 ≤ t then extend1 s.w1 t else s.w1
  { s with w1 := W, v1 := round1 W s.v1 t, phase := if t < 79 then .processingRound (t + 1) else .blockComplete }

/-- `FOLD` of core SHA1 (R116, R119). With LOAD and the 80 ROUNDs before it, it leaves `sha1Block` of `H1` in `H1` (R117, R120). -/
def foldSha1 (s : State) : State :=
  leaveWork1 { s with h1 := fold1 s.h1 s.v1, j := s.j + 1, phase := .awaitingBlock }

end Sys2Proof.Machine
end

