-- ==== Sys2Proof/Machine/Sha256.lean ====
section
/-! DEFINITION. Core SHA256: its compression function and the meanings of its four commands (spec/42_sha256.md). -/

namespace Sys2Proof.Machine

/-- `W[i] <- FromBE32(B[4i..4i+3])` for `i` from 0 to 15 (R141). -/
def decodeBlock2 (B : Block) (W : Vector Word 64) : Vector Word 64 :=
  (List.range 16).foldl (fun W i => writeReg W i (blockWord B i)) W

/-- `W[t] <- add32(W[t-16], SmallSigma0(W[t-15]), W[t-7], SmallSigma1(W[t-2]))` (R142). -/
def extend2 (W : Vector Word 64) (t : Nat) : Vector Word 64 :=
  writeReg W t
    (add32 (add32 (add32 (readReg W (t - 16)) (smallSigma0 (readReg W (t - 15)))) (readReg W (t - 7)))
      (smallSigma1 (readReg W (t - 2))))

/-- The whole schedule of a block, `W[0..15]` decoded and `W[16..63]` in increasing order (R141, R142).
Every entry is written before it is read, so what the local array holds first does not matter. -/
def schedule2 (B : Block) : Vector Word 64 :=
  (List.range' 16 48).foldl extend2 (decodeBlock2 B (Vector.replicate 64 0))

/-- `(a, ..., h) <- (H[0], ..., H[7])` (R143). -/
def seed2 (H : Vector Word 8) : Work2 :=
  ⟨H[0], H[1], H[2], H[3], H[4], H[5], H[6], H[7]⟩

/-- Round `t` (R144). -/
def round2 (W : Vector Word 64) (v : Work2) (t : Nat) : Work2 :=
  let temp1 := add32 (add32 (add32 (add32 v.h (bigSigma1 v.e)) (ch v.e v.f v.g)) (readReg k2 t)) (readReg W t)
  let temp2 := add32 (bigSigma0 v.a) (maj v.a v.b v.c)
  { a := add32 temp1 temp2, b := v.a, c := v.b, d := v.c, e := add32 v.d temp1, f := v.e, g := v.f, h := v.g }

/-- Rounds 0 to `n - 1` in order (R145). -/
def rounds2 (W : Vector Word 64) (v : Work2) (n : Nat) : Work2 :=
  (List.range n).foldl (round2 W) v

/-- The fold (R146). -/
def fold2 (H : Vector Word 8) (v : Work2) : Vector Word 8 :=
  #v[add32 H[0] v.a, add32 H[1] v.b, add32 H[2] v.c, add32 H[3] v.d,
    add32 H[4] v.e, add32 H[5] v.f, add32 H[6] v.g, add32 H[7] v.h]

/-- `SHA256_BLOCK(H, B)` (R147): the one value of `H2` after a block, however an implementation groups the rounds (R150). -/
def sha256Block (H : Vector Word 8) (B : Block) : Vector Word 8 :=
  fold2 H (rounds2 (schedule2 B) (seed2 H) 64)

/-- `SHA256_COMPRESS(H, [B_0, ..., B_{nb-1}])` (R148). -/
def sha256Compress (H : Vector Word 8) (Bs : List Block) : Vector Word 8 :=
  Bs.foldl sha256Block H

/-- `SHA256.INIT` (R151). -/
def execSha256Init (s : State) : Host.Outcome State Fault Refusal :=
  .next (respond [statusOk] { s with h2 := iv2 })

/-- `SHA256.LDST S` (R152); a vector of another length, which no frame decodes to, is rejected (notes/assumptions/6.md). -/
def execSha256Ldst (S : List Word) (s : State) : Host.Outcome State Fault Refusal :=
  if S.length = 8 then .next (respond [statusOk] { s with h2 := loadFile 8 S }) else .next (raise .invalidOperandLength s)

/-- `SHA256.COMP blocks`, START to DONE in one step (R33, R51, R153): the length check comes before any change. -/
def execSha256Comp (Bs : List Block) (s : State) : Host.Outcome State Fault Refusal :=
  if wholeBlocks Bs then .next (doneComp { leaveBlocks2 Bs.length s with h2 := sha256Compress s.h2 Bs })
  else .next (raise .invalidBlockLength s)

/-- `SHA256.RDST` (R154). -/
def execSha256Rdst (s : State) : Host.Outcome State Fault Refusal :=
  .next (respond (statusOk :: rdstData s.h2.toList) s)

/-- `LOAD` of core SHA256 for the block `B` (R149). -/
def loadSha256 (B : Block) (s : State) : State :=
  { s with w2 := decodeBlock2 B s.w2, v2 := seed2 s.h2, phase := .processingRound 0 }

/-- `ROUND` of core SHA256: `W[t]` for `t >= 16`, then round `t` (R149, R157). -/
def roundSha256 (t : Nat) (s : State) : State :=
  let W := if 16 ≤ t then extend2 s.w2 t else s.w2
  { s with w2 := W, v2 := round2 W s.v2 t, phase := if t < 63 then .processingRound (t + 1) else .blockComplete }

/-- `FOLD` of core SHA256 (R146, R149). With LOAD and the 64 ROUNDs before it, it leaves `sha256Block` of `H2` in `H2`
(R147, R150). -/
def foldSha256 (s : State) : State :=
  leaveWork2 { s with h2 := fold2 s.h2 s.v2, j := s.j + 1, phase := .awaitingBlock }

end Sys2Proof.Machine
end

