-- ==== Sys2Proof/Machine/Dispatch.lean ====
section
/-! DEFINITION. One arm per command of spec/opcode_table.json. -/

namespace Sys2Proof.Machine

def exec (i : Instr) (s : State) : Host.Outcome State Fault Refusal :=
  match i with
  | .sha1Init => Sys2Proof.Machine.execSha1Init s
  | .sha1Ldst S => Sys2Proof.Machine.execSha1Ldst S s
  | .sha1Comp Bs => Sys2Proof.Machine.execSha1Comp Bs s
  | .sha1Rdst => Sys2Proof.Machine.execSha1Rdst s
  | .sha256Init => Sys2Proof.Machine.execSha256Init s
  | .sha256Ldst S => Sys2Proof.Machine.execSha256Ldst S s
  | .sha256Comp Bs => Sys2Proof.Machine.execSha256Comp Bs s
  | .sha256Rdst => Sys2Proof.Machine.execSha256Rdst s

end Sys2Proof.Machine
end

