-- ==== Sys2Proof/Machine/Sequencer.lean ====
section
/-! DEFINITION. The sequencer: the step machine of a valid `COMP` (R31, R32, R119, R149). `startComp` and `doneComp` are in
Sys2Proof/Machine/Ops.lean. -/

namespace Sys2Proof.Machine

/-- `LOAD`, for the core the command addresses: block `j` of the payload (R119, R149). -/
def loadStep (s : State) : State :=
  match s.alg with
  | .sha1 => loadSha1 (s.blocks.getD s.j []) s
  | .sha256 => loadSha256 (s.blocks.getD s.j []) s

/-- `ROUND`, for the core the command addresses. -/
def roundStep (t : Nat) (s : State) : State :=
  match s.alg with
  | .sha1 => roundSha1 t s
  | .sha256 => roundSha256 t s

/-- `FOLD`, for the core the command addresses. -/
def foldStep (s : State) : State :=
  match s.alg with
  | .sha1 => foldSha1 s
  | .sha256 => foldSha256 s

/-- The one step enabled while `busy = 1` (R119, R149), each under the condition of its row and the field ranges of R31;
outside those ranges no step is enabled. -/
def busyStep (s : State) : Host.Outcome State Fault Refusal :=
  match s.phase with
  | .awaitingBlock =>
    if s.j < s.blocks.length then .next (loadStep s)
    else if s.j = s.blocks.length then .next (doneComp s)
    else .fault .noStepEnabled
  | .processingRound t => if t < s.alg.nr then .next (roundStep t s) else .fault .noStepEnabled
  | .blockComplete => if s.j < s.blocks.length then .next (foldStep s) else .fault .noStepEnabled

/-- The core and the blocks of a command that runs on the step machine; the others complete in one step (R32). -/
def compOf : Instr → Option (Alg × List Block)
  | .sha1Init => none
  | .sha1Ldst _ => none
  | .sha1Comp Bs => some (.sha1, Bs)
  | .sha1Rdst => none
  | .sha256Init => none
  | .sha256Ldst _ => none
  | .sha256Comp Bs => some (.sha256, Bs)
  | .sha256Rdst => none

end Sys2Proof.Machine
end

