-- ==== Sys2Proof/Machine/Port.lean ====
section
/-! DEFINITION. The command port: accepting a frame, holding the next one while busy, and RESET (R56, R60, R70, R195, R200). -/

namespace Sys2Proof.Machine

/-- Run a decoded command: whole (R33, R51), or, at the granularity of phases, the START of a `COMP` (R119). -/
def startCommand (i : Instr) (s : State) : Host.Outcome State Fault Refusal :=
  match s.grain, compOf i with
  | .phase, some (c, Bs) => .next (startComp c Bs s)
  | _, _ => exec i s

/-- Accept the frame `F`: decode it, and run the command or reject the frame with nothing changed (R69, R175). -/
def acceptFrame (F : Frame) (s : State) : Host.Outcome State Fault Refusal :=
  match decode F with
  | .ok i => startCommand i s
  | .rejected r => .next (raise (errorOf r) s)

/-- The frame at the head of the port is accepted; `rest` is still to come (R56). -/
def takeFrame (rest : List Frame) (s : State) : State :=
  { s with port := rest }

/-- A model step in which no RESET strikes: the sequencer's step while busy, the port holding every frame (R200); else the
next frame the host offers, if there is one; else the block is simply idle (R184; notes/assumptions/11.md). -/
def advance (s : State) : Host.Outcome State Fault Refusal :=
  match s.busy, s.port with
  | true, _ => busyStep s
  | false, [] => .next s
  | false, F :: rest => acceptFrame F (takeFrame rest s)

/-- A RESET still to come is one model step nearer. -/
def countDown (s : State) : State :=
  { s with resets := s.resets.modifyHead (· - 1) }

/-- One model step: RESET when it is due (R195: at any time, also while a command is in execution), else `advance`. -/
def runStep (s : State) : Host.Outcome State Fault Refusal :=
  if s.resets.head? = some 0 then .next (takeReset s) else advance (countDown s)

/-- The state in which the next step accepts the frame `F`: idle, no RESET coming, `F` first at the port, commands run whole. -/
def offerFirst (F : Frame) (s : State) : State :=
  { s with busy := false, phase := .awaitingBlock, blocks := [], port := F :: s.port, resets := [], grain := .command }

end Sys2Proof.Machine
end

