-- ==== Sys2Proof/Machine/Step.lean ====
section
/-! DEFINITION. The step of the block, and the state whose next step runs a given table word. -/

namespace Sys2Proof.Machine

/-- One model step (Sys2Proof/Machine/Port.lean). -/
def step (s : State) : Host.Outcome State Fault Refusal :=
  runStep s

/-- `s` with the frame of a table word offered first at the port; the block has no program memory (R59), so this is all a
fetch takes (notes/assumptions/7.md). -/
def State.withFetchWord (s : State) (nbits w : Nat) : State :=
  offerFirst (tableFrame nbits w) s

end Sys2Proof.Machine
end

