-- ==== Sys2Proof/Machine/Pseudo.lean ====
section
/-! DEFINITION. The two pseudo-commands, each a fixed sequence of real commands (R78, spec/30_encoding.md). -/

namespace Sys2Proof.Machine

/-- `<core>.CALL S, blocks` expands to `LDST S`, `COMP blocks`, `RDST` (R78); `P` is the payload of the `COMP`. -/
def callFrames (c : Alg) (S : List Word) (P : List Byte) : List Frame :=
  [opcode c .ldst :: S.flatMap be32, opcode c .comp :: P, [opcode c .rdst]]

/-- `<core>.HASH blocks` expands to `INIT`, `COMP blocks`, `RDST` (R78); `P` is the payload of the `COMP`. -/
def hashFrames (c : Alg) (P : List Byte) : List Frame :=
  [[opcode c .init], opcode c .comp :: P, [opcode c .rdst]]

end Sys2Proof.Machine
end

