-- ==== Sys2Proof/Machine/Text.lean ====
section
/-! DEFINITION. The textual form of commands and responses (R76, R78): a line is a list of characters.
It has no hardware meaning (spec/92_eei_decisions.md D18); it says which frames a written program stands for. -/

namespace Sys2Proof.Machine

/-- A hexadecimal digit; the letters are lower case by then. -/
def hexDigit (c : Char) : Option Nat :=
  if 48 ≤ c.toNat ∧ c.toNat ≤ 57 then some (c.toNat - 48)
  else if 97 ≤ c.toNat ∧ c.toNat ≤ 102 then some (c.toNat - 87)
  else none

/-- A run of hexadecimal digits, two per byte; `none` for an odd number of digits or another character (R76). -/
def hexBytes : List Char → Option (List Byte)
  | [] => some []
  | [_] => none
  | hi :: lo :: rest =>
    match hexDigit hi, hexDigit lo, hexBytes rest with
    | some x, some y, some bs => some (BitVec.ofNat 8 (16 * x + y) :: bs)
    | _, _, _ => none

/-- The runs of characters between white space; `word` is the run being read, last character first. -/
def splitWords : List Char → List Char → List (List Char)
  | word, [] => if word.isEmpty then [] else [word.reverse]
  | word, c :: cs =>
    if c.isWhitespace then (if word.isEmpty then splitWords [] cs else word.reverse :: splitWords [] cs)
    else splitWords (c :: word) cs

/-- The words of a line: no comment, lower case, a comma a word of its own (R76, R78). -/
def lineWords (line : List Char) : List (List Char) :=
  splitWords [] (((line.map Char.toLower).takeWhile fun c => c != ';').flatMap fun c => if c = ',' then [' ', c, ' '] else [c])

/-- The bytes of `nw` words of 8 hexadecimal digits each, most significant digit first (R76). -/
def wordOperand (nw : Nat) (args : List (List Char)) : Option (List Byte) :=
  if args.length = nw ∧ args.all (fun w => w.length == 8) then hexBytes args.flatten else none

/-- The bytes of a `COMP` operand: white space between digits is ignored, and the payload is whole blocks, since `.frame`
is the only way to write a malformed frame (R76; notes/assumptions/10.md). -/
def blocksOperand (args : List (List Char)) : Option (List Byte) :=
  match hexBytes args.flatten with
  | some P => if P.length % 64 = 0 then some P else none
  | none => none

/-- A word that is `<core>.<op>`, as the core and the letters of the operation. -/
def commandName (w : List Char) : Option (Alg × List Char) :=
  if w.take 5 = "sha1.".toList then some (.sha1, w.drop 5)
  else if w.take 7 = "sha256.".toList then some (.sha256, w.drop 7)
  else none

/-- The frames of one command or pseudo-command with its operands (R76, R78). -/
def commandFrames (c : Alg) (op : List Char) (args : List (List Char)) : Option (List Frame) :=
  if op = "init".toList then (if args.isEmpty then some [[opcode c .init]] else none)
  else if op = "ldst".toList then (wordOperand c.nw args).map fun P => [opcode c .ldst :: P]
  else if op = "comp".toList then (blocksOperand args).map fun P => [opcode c .comp :: P]
  else if op = "rdst".toList then (if args.isEmpty then some [[opcode c .rdst]] else none)
  else if op = "hash".toList then (blocksOperand args).map (hashFrames c)
  else if op = "call".toList then
    match args.span (fun w => w != [',']) with
    | (ws, _ :: bs) =>
      match wordOperand c.nw ws, blocksOperand bs with
      | some S, some P => some [opcode c .ldst :: S, opcode c .comp :: P, [opcode c .rdst]]
      | _, _ => none
    | (_, []) => none
  else none

/-- The frames a line stands for: none for a blank line or a comment, three for a pseudo-command; `none` when the line is
not of the syntax (R76, R78).
DESIGN CHOICE (notes/assumptions/10.md): white space between the digits after `.frame` is ignored as in a `COMP` operand, within
a byte too, so `.frame 1 0` is the frame `[0x10]`; R76 says only 'byte by byte'.
DESIGN CHOICE (notes/assumptions/10.md): a response does not stand on its command's line. `->` there is read as an operand, so
`SHA1.INIT -> OK` stands for no frame, and so does a line that begins with `->`; R76 does not say on which line it is written. -/
def lineFrames (line : List Char) : Option (List Frame) :=
  match lineWords line with
  | [] => some []
  | w :: args =>
    if w = ".frame".toList then (hexBytes args.flatten).map fun F => [F]
    else
      match commandName w with
      | some (c, op) => commandFrames c op args
      | none => none

/-- The character of a hexadecimal digit. -/
def digitChar (n : Nat) : Char :=
  if n < 10 then Char.ofNat (48 + n) else Char.ofNat (87 + n)

/-- Bytes as hexadecimal digits, two per byte, first byte first (R15). -/
def hexText (bs : List Byte) : List Char :=
  bs.flatMap fun b => [digitChar (b.toNat / 16), digitChar (b.toNat % 16)]

/-- The name of a status byte; none for a reserved one, which is never produced (R71). -/
def statusName (b : Byte) : Option (List Char) :=
  if b = statusOk then some "OK".toList
  else if b = Error.invalidBlockLength.status then some "InvalidBlockLength".toList
  else if b = Error.invalidOpcode.status then some "InvalidOpcode".toList
  else if b = Error.invalidOperandLength.status then some "InvalidOperandLength".toList
  else none

/-- A response as it is written after `->` (R76): the status by name, then the data in hexadecimal if there is any. -/
def responseText : Frame → Option (List Char)
  | [] => none
  | st :: Q => (statusName st).map fun n => "-> ".toList ++ n ++ (if Q.isEmpty then [] else ' ' :: hexText Q)

end Sys2Proof.Machine
end

