-- ==== Sys2Proof/Safety.lean ====
section
/-! DEFINITION. The terms the statements about runs use: legal sequencer states, what the transients hold while a block is
processed, what a host can see, what a step's course may depend on, and how many steps a command has left. -/

namespace Sys2Proof.Machine

/-- The outcome of a step is a next state: the machine neither faults nor refuses. -/
def StepRuns (s : State) : Prop :=
  ∃ t, step s = .next t

/-- The sequencer is inside the field ranges of R31: `t` is 0 to `NR-1`, `j` is 0 to `nb` and below `nb` while a block is
processed, every block has 64 bytes (R44); and when idle `phase = AwaitingBlock` and no frame is held (R32, R59). -/
def SequencerLegal (s : State) : Prop :=
  if s.busy then
    wholeBlocks s.blocks = true ∧ s.j ≤ s.blocks.length ∧ (s.phase ≠ .awaitingBlock → s.j < s.blocks.length) ∧
      ∀ t, s.phase = .processingRound t → t < s.alg.nr
  else s.phase = .awaitingBlock ∧ s.blocks = []

/-- The block the sequencer is processing, block `j` of the payload. -/
def currentBlock (s : State) : Block :=
  s.blocks.getD s.j []

/-- Core SHA1 stands before round `t` of the current block: `a` to `e` are what rounds 0 to `t-1` made of `H1`, and the
schedule holds the words decoded and computed so far (R111 to R115, R119, R127). -/
def Sha1AtRound (s : State) (t : Nat) : Prop :=
  s.v1 = rounds1 (schedule1 (currentBlock s)) (seed1 s.h1) t ∧
    ∀ i, i < max 16 t → readReg s.w1 i = readReg (schedule1 (currentBlock s)) i

/-- Core SHA256 stands before round `t` of the current block (R141 to R145, R149, R157). -/
def Sha256AtRound (s : State) (t : Nat) : Prop :=
  s.v2 = rounds2 (schedule2 (currentBlock s)) (seed2 s.h2) t ∧
    ∀ i, i < max 16 t → readReg s.w2 i = readReg (schedule2 (currentBlock s)) i

/-- While a command runs the transients of the core at work are those of the current block: before round `t` in
`ProcessingRound(t)`, after the last round in `BlockComplete`. -/
def DatapathCorrect (s : State) : Prop :=
  s.busy = true →
    (∀ t, s.alg = .sha1 → s.phase = .processingRound t → Sha1AtRound s t) ∧
    (s.alg = .sha1 → s.phase = .blockComplete → Sha1AtRound s 80) ∧
    (∀ t, s.alg = .sha256 → s.phase = .processingRound t → Sha256AtRound s t) ∧
    (s.alg = .sha256 → s.phase = .blockComplete → Sha256AtRound s 64)

/-- The model steps left until the response of the command in execution is sent (R119, R149); 0 when idle. -/
def stepsLeft (s : State) : Nat :=
  if s.busy then
    match s.phase with
    | .awaitingBlock => (s.blocks.length - s.j) * (s.alg.nr + 2) + 1
    | .processingRound t => s.alg.nr - t + 1 + (s.blocks.length - s.j - 1) * (s.alg.nr + 2) + 1
    | .blockComplete => 1 + (s.blocks.length - s.j - 1) * (s.alg.nr + 2) + 1
  else 0

/-- What is still owed to the host: frames at the port and the command in execution. -/
def owed (s : State) : Nat :=
  s.port.length + if s.busy then 1 else 0

/-- A response of a form R71 and R72 allow: a status byte 0x00 to 0x03, data only after `OK` and then 20 or 32 bytes. -/
def ResponseForm (R : Frame) : Prop :=
  ∃ st Q, R = st :: Q ∧ st.toNat ≤ 3 ∧ (Q = [] ∨ st = statusOk ∧ (Q.length = 20 ∨ Q.length = 32))

/-- Two frames of one shape: the same length and the same opcode byte. -/
def SameShape (F G : Frame) : Prop :=
  F.length = G.length ∧ F.head? = G.head?

/-- Two states that agree on everything the course of a command may depend on (R32, R185): the sequencer, the number of
blocks, the opcode and length of every frame; they may differ in every payload byte, in `H1`, `H2` and the transients.
They agree in the model's own fields `resets`, `grain` and `draws` too (notes/assumptions/4.md, 5.md), and in `alg` and `j` also
while idle, where the spec leaves the two unspecified and equal draws give equal free values (notes/assumptions/3.md). -/
def ControlAgree (s t : State) : Prop :=
  s.busy = t.busy ∧ s.alg = t.alg ∧ s.phase = t.phase ∧ s.j = t.j ∧ s.blocks.length = t.blocks.length ∧
    s.resets = t.resets ∧ s.grain = t.grain ∧ s.draws = t.draws ∧
    List.Forall₂ SameShape s.port t.port ∧ List.Forall₂ (fun R Q => R.length = Q.length) s.responses t.responses

/-- The transients a command in execution still needs agree: those of the core at work, from its LOAD to its FOLD. -/
def LiveAgree (s t : State) : Prop :=
  (s.phase ≠ .awaitingBlock → (s.alg = .sha1 → s.v1 = t.v1) ∧ (s.alg = .sha256 → s.v2 = t.v2)) ∧
    ∀ r, s.phase = .processingRound r →
      (s.alg = .sha1 → ∀ i, i < max 16 r → readReg s.w1 i = readReg t.w1 i) ∧
      (s.alg = .sha256 → ∀ i, i < max 16 r → readReg s.w2 i = readReg t.w2 i)

/-- Two states a host cannot tell apart: they may differ in the transients nothing will read again, in `alg` and `j` when
idle (R24, R28, R30, R33, R40), and in the draws of free values. -/
def SameToHost (s t : State) : Prop :=
  s.h1 = t.h1 ∧ s.h2 = t.h2 ∧ s.busy = t.busy ∧ s.phase = t.phase ∧ s.blocks = t.blocks ∧ s.port = t.port ∧
    s.responses = t.responses ∧ s.resets = t.resets ∧ s.grain = t.grain ∧
    (s.busy = true → s.alg = t.alg ∧ s.j = t.j ∧ LiveAgree s t)

/-- Idle, nothing held, no RESET coming: where the block stands between commands (R32). -/
def Ready (s : State) : Prop :=
  s.busy = false ∧ s.phase = .awaitingBlock ∧ s.blocks = [] ∧ s.resets = []

end Sys2Proof.Machine
end

