-- ==== Sys2Proof/Certificates/Slice0/Obligations.lean ====
section
/-! DEFINITION. What is claimed of the block, for the provers: the spec's numbered rules as statements about the model. -/

open Sys2Proof Sys2Proof.Machine

/-! ### Encoding (spec/30_encoding.md) -/

/-- R77: the encoder's words, and both round trips: over every well-formed command, and over every frame that decodes. -/
def Obligations.DecodeEncodeRoundTrip : Prop :=
  (∀ i, wellFormed i = true → decode (encode i) = .ok i) ∧
  (∀ F i, decode F = .ok i → wellFormed i = true ∧ encode i = F) ∧
  encode .sha1Init = [0x10] ∧ (∀ S, encode (.sha1Ldst S) = 0x11 :: S.flatMap be32) ∧
  (∀ Bs, encode (.sha1Comp Bs) = 0x12 :: Bs.flatten) ∧ encode .sha1Rdst = [0x13] ∧
  encode .sha256Init = [0x20] ∧ (∀ S, encode (.sha256Ldst S) = 0x21 :: S.flatMap be32) ∧
  (∀ Bs, encode (.sha256Comp Bs) = 0x22 :: Bs.flatten) ∧ encode .sha256Rdst = [0x23]

/-- R69, with R64 to R67: what every byte string decodes to: each of the eight opcode bytes with a payload of the length it
requires, the rejection of every other length, and `Illegal` for the empty frame and for the other 248 opcode bytes, whatever
the payload; and how each rejection is answered, with no state changed. -/
def Obligations.DecodeFollowsTheOpcodeMapAndLengths : Prop :=
  decode [] = .rejected .illegal ∧
  (∀ (b : Byte) (P : List Byte), decode (b :: P) = .rejected .illegal ↔
    b ∉ ([0x10, 0x11, 0x12, 0x13, 0x20, 0x21, 0x22, 0x23] : List Byte)) ∧
  (∀ (F : Frame) (r : Rejection) (s : State), decode F = .rejected r →
    (r = .illegal → acceptFrame F s = .next { s with responses := s.responses ++ [[0x02]] }) ∧
    (∀ c o, r = .badLength c o → acceptFrame F s = .next { s with responses := s.responses ++ [[0x03]] }) ∧
    ∀ c, r = .badBlockLength c → acceptFrame F s = .next { s with responses := s.responses ++ [[0x01]] }) ∧
  ∀ P : List Byte,
    decode (0x10 :: P) = (if P.length = 0 then .ok .sha1Init else .rejected (.badLength .sha1 .init)) ∧
    decode (0x11 :: P) = (if P.length = 20 then .ok (.sha1Ldst ((List.range 5).map fun i => memReadWord P (4 * i)))
      else .rejected (.badLength .sha1 .ldst)) ∧
    decode (0x12 :: P) = (if P.length % 64 = 0
      then .ok (.sha1Comp ((List.range (P.length / 64)).map fun j => (P.drop (64 * j)).take 64))
      else .rejected (.badBlockLength .sha1)) ∧
    decode (0x13 :: P) = (if P.length = 0 then .ok .sha1Rdst else .rejected (.badLength .sha1 .rdst)) ∧
    decode (0x20 :: P) = (if P.length = 0 then .ok .sha256Init else .rejected (.badLength .sha256 .init)) ∧
    decode (0x21 :: P) = (if P.length = 32 then .ok (.sha256Ldst ((List.range 8).map fun i => memReadWord P (4 * i)))
      else .rejected (.badLength .sha256 .ldst)) ∧
    decode (0x22 :: P) = (if P.length % 64 = 0
      then .ok (.sha256Comp ((List.range (P.length / 64)).map fun j => (P.drop (64 * j)).take 64))
      else .rejected (.badBlockLength .sha256)) ∧
    decode (0x23 :: P) = (if P.length = 0 then .ok .sha256Rdst else .rejected (.badLength .sha256 .rdst))

/-- The eight rows of the opcode table (R64), with zero operand bytes where the command needs them
(notes/assumptions/8.md), decode to the rows' commands. -/
def Obligations.TableWordsDecodeToTheirRows : Prop :=
  decodeTableWord 8 0x10 = some .sha1Init ∧ decodeTableWord 8 0x11 = some (.sha1Ldst [0, 0, 0, 0, 0]) ∧
  decodeTableWord 8 0x12 = some (.sha1Comp []) ∧ decodeTableWord 8 0x13 = some .sha1Rdst ∧
  decodeTableWord 8 0x20 = some .sha256Init ∧ decodeTableWord 8 0x21 = some (.sha256Ldst [0, 0, 0, 0, 0, 0, 0, 0]) ∧
  decodeTableWord 8 0x22 = some (.sha256Comp []) ∧ decodeTableWord 8 0x23 = some .sha256Rdst

/-! ### Byte order and operands (spec/20_memory.md, spec/40_primitives.md R100) -/

/-- R100: `BE32` is the four bytes of a word, most significant first, `FromBE32` weighs them by powers of 256, the two are
inverse, and they are what decodes a block word and an `LDST` word and what encodes the data of `RDST`. -/
def Obligations.BigEndianWordsRoundTrip : Prop :=
  (∀ x : Word, be32 x = [x.extractLsb' 24 8, x.extractLsb' 16 8, x.extractLsb' 8 8, x.extractLsb' 0 8]) ∧
  (∀ b0 b1 b2 b3 : Byte,
    (fromBE32 b0 b1 b2 b3).toNat = b0.toNat * 2 ^ 24 + b1.toNat * 2 ^ 16 + b2.toNat * 2 ^ 8 + b3.toNat) ∧
  (∀ x : Word, fromBE32 (x.extractLsb' 24 8) (x.extractLsb' 16 8) (x.extractLsb' 8 8) (x.extractLsb' 0 8) = x) ∧
  (∀ b0 b1 b2 b3 : Byte, be32 (fromBE32 b0 b1 b2 b3) = [b0, b1, b2, b3]) ∧
  (∀ (B : Block) (i : Nat),
    blockWord B i = fromBE32 (byteAt B (4 * i)) (byteAt B (4 * i + 1)) (byteAt B (4 * i + 2)) (byteAt B (4 * i + 3))) ∧
  (∀ (P : List Byte) (n i : Nat), i < n → (ldstOperand n P)[i]? =
    some (fromBE32 (byteAt P (4 * i)) (byteAt P (4 * i + 1)) (byteAt P (4 * i + 2)) (byteAt P (4 * i + 3)))) ∧
  ∀ H : List Word, rdstData H = H.flatMap be32

/-- R46: `MemRead` of one and of four bytes as a number, the byte at the lowest offset most significant. -/
def Obligations.MemReadIsBigEndian : Prop :=
  ∀ (P : List Byte) (addr : Nat),
    (addr + 1 ≤ P.length → memRead P addr 1 = (byteAt P addr).toNat) ∧
    (addr + 4 ≤ P.length → memRead P addr 4 = (byteAt P addr).toNat * 2 ^ 24 + (byteAt P (addr + 1)).toNat * 2 ^ 16 +
      (byteAt P (addr + 2)).toNat * 2 ^ 8 + (byteAt P (addr + 3)).toNat)

/-- R47: `MemWrite` of one and of four bytes: byte `addr + k` of the data becomes bits `8(n-k)-1` to `8(n-k-1)` of `v`, every
other byte stands, and the length grows to `addr + n` and no further. -/
def Obligations.MemWriteIsBigEndian : Prop :=
  ∀ (Q : List Byte) (addr n v : Nat), n = 1 ∨ n = 4 → v < 2 ^ (8 * n) → addr ≤ Q.length →
    (∀ k, k < n → (byteAt (memWrite Q addr n v) (addr + k)).toNat = v / 2 ^ (8 * (n - k - 1)) % 2 ^ 8) ∧
    (∀ i, i < addr ∨ addr + n ≤ i → byteAt (memWrite Q addr n v) i = byteAt Q i) ∧
    (memWrite Q addr n v).length = max Q.length (addr + n)

/-- R48: word `i` of block `j` is `MemRead(64j + 4i, 4)` of the payload, first byte most significant; the worked example. -/
def Obligations.BlockWordsAreBigEndianReads : Prop :=
  ∀ (P : List Byte) (j i : Nat), 64 * (j + 1) ≤ P.length → i < 16 →
    blockWord ((compOperand P).getD j []) i = memReadWord P (64 * j + 4 * i) ∧
    (memReadWord P (64 * j + 4 * i)).toNat =
      (byteAt P (64 * j + 4 * i)).toNat * 2 ^ 24 + (byteAt P (64 * j + 4 * i + 1)).toNat * 2 ^ 16 +
        (byteAt P (64 * j + 4 * i + 2)).toNat * 2 ^ 8 + (byteAt P (64 * j + 4 * i + 3)).toNat ∧
    ∀ B : List Byte, blockWord (0x61 :: 0x62 :: 0x63 :: 0x80 :: B) 0 = 0x61626380

/-- R45, R122, R152: what `LDST` carries in, `RDST` carries out, byte for byte, on each core and from any state. -/
def Obligations.ReadReturnsTheLoadedBytes : Prop :=
  ∀ (s : State) (P : List Byte),
    (P.length = 20 → ∃ t u, acceptFrame (0x11 :: P) s = .next t ∧ acceptFrame [0x13] t = .next u ∧
      u.responses = s.responses ++ [[0x00], 0x00 :: P]) ∧
    (P.length = 32 → ∃ t u, acceptFrame (0x21 :: P) s = .next t ∧ acceptFrame [0x23] t = .next u ∧
      u.responses = s.responses ++ [[0x00], 0x00 :: P])

/-! ### Primitives and constants (spec/40_primitives.md, spec/10_state.md section 7) -/

/-- R86: `add32` is addition modulo 2^32, and a sum of several words may be formed in any order and grouping. -/
def Obligations.AdditionWraps : Prop :=
  (∀ x y : Word, (add32 x y).toNat = (x.toNat + y.toNat) % 2 ^ 32) ∧
  ∀ (xs ys : List Word), xs.Perm ys →
    (xs.foldl add32 0).toNat = (xs.map BitVec.toNat).sum % 2 ^ 32 ∧ ys.foldr add32 0 = xs.foldl add32 0

/-- R88, R89: the rotates as numbers and bit by bit, for every amount from 1 to 31. -/
def Obligations.RotatesMoveEveryBit : Prop :=
  ∀ (x : Word) (n : Nat), 0 < n → n < 32 →
    (rotl x n).toNat = x.toNat * 2 ^ n % 2 ^ 32 + x.toNat / 2 ^ (32 - n) ∧
    (∀ i, i < 32 → (rotl x n).getLsbD i = x.getLsbD ((i + 32 - n) % 32)) ∧
    (rotr x n).toNat = x.toNat / 2 ^ n + x.toNat % 2 ^ n * 2 ^ (32 - n) ∧
    (∀ i, i < 32 → (rotr x n).getLsbD i = x.getLsbD ((i + n) % 32)) ∧
    rotr x n = rotl x (32 - n)

/-- R90: the logical shift as a number, for every amount from 1 to 31. -/
def Obligations.ShiftIsFloorDivision : Prop :=
  ∀ (x : Word) (n : Nat), 0 < n → n < 32 →
    (shr x n).toNat = x.toNat / 2 ^ n ∧ ∀ i, i < 32 → 32 ≤ i + n → (shr x n).getLsbD i = false

/-- R92, R93, R94: the three round functions by their formulas and bit by bit, the form of `Ch` the source gives for SHA-256,
and the symmetry of `Maj`. -/
def Obligations.RoundFunctionsBitByBit : Prop :=
  ∀ (x y z : Word) (i : Nat), i < 32 →
    (ch x y z).getLsbD i = (if x.getLsbD i then y.getLsbD i else z.getLsbD i) ∧
    ch x y z = (x &&& y) ^^^ (~~~x &&& z) ∧
    (parity x y z).getLsbD i = ((x.getLsbD i ^^ y.getLsbD i) ^^ z.getLsbD i) ∧
    (maj x y z).getLsbD i =
      decide (2 ≤ (x.getLsbD i).toNat + (y.getLsbD i).toNat + (z.getLsbD i).toNat) ∧
    ch x y z = z ^^^ (x &&& (y ^^^ z)) ∧ parity x y z = (x ^^^ y) ^^^ z ∧
    maj x y z = ((x &&& y) ^^^ (x &&& z)) ^^^ (y &&& z) ∧ maj x y z = maj y x z ∧ maj x y z = maj x z y

/-- R96 to R99: the four sigma functions bit by bit: the rotates wrap around the word, the third term of each small sigma is a
shift and runs off its top. -/
def Obligations.SigmaFunctionsBitByBit : Prop :=
  ∀ (x : Word) (i : Nat), i < 32 →
    (bigSigma0 x).getLsbD i =
      ((x.getLsbD ((i + 2) % 32) ^^ x.getLsbD ((i + 13) % 32)) ^^ x.getLsbD ((i + 22) % 32)) ∧
    (bigSigma1 x).getLsbD i =
      ((x.getLsbD ((i + 6) % 32) ^^ x.getLsbD ((i + 11) % 32)) ^^ x.getLsbD ((i + 25) % 32)) ∧
    (smallSigma0 x).getLsbD i =
      ((x.getLsbD ((i + 7) % 32) ^^ x.getLsbD ((i + 18) % 32)) ^^ (decide (i + 3 < 32) && x.getLsbD (i + 3))) ∧
    (smallSigma1 x).getLsbD i =
      ((x.getLsbD ((i + 17) % 32) ^^ x.getLsbD ((i + 19) % 32)) ^^ (decide (i + 10 < 32) && x.getLsbD (i + 10)))

/-- R95: the function and the constant of each of the four stages. -/
def Obligations.StageSelectsFunctionAndConstant : Prop :=
  ∀ (t : Nat) (x y z : Word),
    (t < 20 → f1 t x y z = ch x y z ∧ stageConstant t = 0x5A827999) ∧
    (20 ≤ t → t < 40 → f1 t x y z = parity x y z ∧ stageConstant t = 0x6ED9EBA1) ∧
    (40 ≤ t → t < 60 → f1 t x y z = maj x y z ∧ stageConstant t = 0x8F1BBCDC) ∧
    (60 ≤ t → t < 80 → f1 t x y z = parity x y z ∧ stageConstant t = 0xCA62C1D6)

/-- R101: the laws a model may rely on, all of them, for all words and every rotate amount from 1 to 31. -/
def Obligations.LawsOfThePrimitives : Prop :=
  (∀ x y z : Word, add32 x 0 = x ∧ add32 x y = add32 y x ∧ add32 (add32 x y) z = add32 x (add32 y z)) ∧
  (∀ (x y : Word) (n : Nat), 0 < n → n < 32 →
    rotr x n = rotl x (32 - n) ∧ rotl (rotr x n) n = x ∧ rotl (x ^^^ y) n = rotl x n ^^^ rotl y n ∧
    rotr (x ^^^ y) n = rotr x n ^^^ rotr y n ∧ shr (x ^^^ y) n = shr x n ^^^ shr y n) ∧
  (∀ x y z : Word, ch x y z = (x &&& y) ^^^ (~~~x &&& z) ∧ ch x y y = y ∧ maj x x z = x ∧
    maj x y z = maj y x z ∧ maj x y z = maj x z y ∧ parity x x z = z) ∧
  (∀ x y : Word, bigSigma0 (x ^^^ y) = bigSigma0 x ^^^ bigSigma0 y ∧ bigSigma1 (x ^^^ y) = bigSigma1 x ^^^ bigSigma1 y ∧
    smallSigma0 (x ^^^ y) = smallSigma0 x ^^^ smallSigma0 y ∧ smallSigma1 (x ^^^ y) = smallSigma1 x ^^^ smallSigma1 y) ∧
  ∃ x y z : Word, add32 (x ^^^ y) z ≠ add32 x z ^^^ add32 y z

/-- R37, R38: `IV2[i]` is the first 32 bits of the fraction of the square root of the `i`-th prime, `K2[i]` of the cube root:
`c` is the root times 2^32, truncated. The 64 numbers listed are the primes up to 311. -/
def Obligations.Sha256ConstantsAreRootFractions : Prop :=
  ∃ ps : List Nat, ps.length = 64 ∧ (∀ p, p ∈ ps ↔ 2 ≤ p ∧ p ≤ 311 ∧ ∀ d, d ∣ p → d = 1 ∨ d = p) ∧ ps.Pairwise (· < ·) ∧
    (∀ i, i < 8 → ∃ c, c ^ 2 ≤ ps.getD i 0 * 2 ^ 64 ∧ ps.getD i 0 * 2 ^ 64 < (c + 1) ^ 2 ∧ (readReg iv2 i).toNat = c % 2 ^ 32) ∧
    ∀ i, i < 64 → ∃ c, c ^ 3 ≤ ps.getD i 0 * 2 ^ 96 ∧ ps.getD i 0 * 2 ^ 96 < (c + 1) ^ 3 ∧ (readReg k2 i).toNat = c % 2 ^ 32

/-! ### The two compression functions (spec/41_sha1.md, spec/42_sha256.md) -/

/-- R111 to R117: whenever `W` obeys the decode and schedule rules and `v` the seed and round rules of SHA-1, the block
function folds the variables after round 79 into the state. -/
def Obligations.Sha1BlockObeysTheRecurrences : Prop :=
  ∀ (H : Vector Word 5) (B : Block) (W : Nat → Word) (v : Nat → Work1),
    (∀ i, i < 16 → W i = fromBE32 (byteAt B (4 * i)) (byteAt B (4 * i + 1)) (byteAt B (4 * i + 2)) (byteAt B (4 * i + 3))) →
    (∀ t, 16 ≤ t → t < 80 → W t = rotl (W (t - 3) ^^^ W (t - 8) ^^^ W (t - 14) ^^^ W (t - 16)) 1) →
    v 0 = ⟨H[0], H[1], H[2], H[3], H[4]⟩ →
    (∀ t, t < 80 → v (t + 1) =
      ⟨(v t).e + rotl (v t).a 5 + f1 t (v t).b (v t).c (v t).d + W t + stageConstant t,
        (v t).a, rotl (v t).b 30, (v t).c, (v t).d⟩) →
    sha1Block H B =
      #v[H[0] + (v 80).a, H[1] + (v 80).b, H[2] + (v 80).c, H[3] + (v 80).d, H[4] + (v 80).e]

/-- R141 to R147: the same for SHA-256. -/
def Obligations.Sha256BlockObeysTheRecurrences : Prop :=
  ∀ (H : Vector Word 8) (B : Block) (W : Nat → Word) (v : Nat → Work2),
    (∀ i, i < 16 → W i = fromBE32 (byteAt B (4 * i)) (byteAt B (4 * i + 1)) (byteAt B (4 * i + 2)) (byteAt B (4 * i + 3))) →
    (∀ t, 16 ≤ t → t < 64 → W t = W (t - 16) + smallSigma0 (W (t - 15)) + W (t - 7) + smallSigma1 (W (t - 2))) →
    v 0 = ⟨H[0], H[1], H[2], H[3], H[4], H[5], H[6], H[7]⟩ →
    (∀ t, t < 64 → ∀ temp1 temp2 : Word,
      temp1 = (v t).h + bigSigma1 (v t).e + ch (v t).e (v t).f (v t).g + readReg k2 t + W t →
      temp2 = bigSigma0 (v t).a + maj (v t).a (v t).b (v t).c →
      v (t + 1) = ⟨temp1 + temp2, (v t).a, (v t).b, (v t).c, (v t).d + temp1, (v t).e, (v t).f, (v t).g⟩) →
    sha256Block H B =
      #v[H[0] + (v 64).a, H[1] + (v 64).b, H[2] + (v 64).c, H[3] + (v 64).d,
        H[4] + (v 64).e, H[5] + (v 64).f, H[6] + (v 64).g, H[7] + (v 64).h]

/-- R116, R146: the fold adds word by word modulo 2^32; no word saturates. -/
def Obligations.FoldWrapsWordByWord : Prop :=
  (∀ (H : Vector Word 5) (v : Work1),
    (fold1 H v).toList.map BitVec.toNat =
      List.zipWith (fun x y => (x + y) % 2 ^ 32) (H.toList.map BitVec.toNat)
        [v.a.toNat, v.b.toNat, v.c.toNat, v.d.toNat, v.e.toNat]) ∧
  ∀ (H : Vector Word 8) (v : Work2),
    (fold2 H v).toList.map BitVec.toNat =
      List.zipWith (fun x y => (x + y) % 2 ^ 32) (H.toList.map BitVec.toNat)
        [v.a.toNat, v.b.toNat, v.c.toNat, v.d.toNat, v.e.toNat, v.f.toNat, v.g.toNat, v.h.toNat]

/-- R127, R157: a schedule word depends only on the earlier words its recurrence names, and computing each just before its
round, in an array that held anything before, gives the same words and the same working variables as the whole schedule
computed first. -/
def Obligations.ScheduleOnTheFlyIsTheSchedule : Prop :=
  (∀ (W X : Vector Word 80) (t : Nat), 16 ≤ t → t < 80 →
    readReg W (t - 16) = readReg X (t - 16) → readReg W (t - 14) = readReg X (t - 14) →
    readReg W (t - 8) = readReg X (t - 8) → readReg W (t - 3) = readReg X (t - 3) →
    readReg (extend1 W t) t = readReg (extend1 X t) t) ∧
  (∀ (W : Vector Word 80) (v : Work1) (B : Block),
    (List.range 80).foldl (fun x t =>
      let W := if 16 ≤ t then extend1 x.1 t else x.1
      (W, round1 W x.2 t)) (decodeBlock1 B W, v) = (schedule1 B, rounds1 (schedule1 B) v 80)) ∧
  (∀ (W X : Vector Word 64) (t : Nat), 16 ≤ t → t < 64 →
    (∀ i, t - 16 ≤ i → i < t → readReg W i = readReg X i) → readReg (extend2 W t) t = readReg (extend2 X t) t) ∧
  ∀ (W : Vector Word 64) (v : Work2) (B : Block),
    (List.range 64).foldl (fun x t =>
      let W := if 16 ≤ t then extend2 x.1 t else x.1
      (W, round2 W x.2 t)) (decodeBlock2 B W, v) = (schedule2 B, rounds2 (schedule2 B) v 64)

/-! ### The commands: effect, frame and rejection (R121 to R124, R151 to R154) -/

/-- R121: `SHA1.INIT` loads the five words of `IV1`, answers `OK` and changes nothing else; with a payload it is rejected. -/
def Obligations.Sha1InitLoadsTheInitialState : Prop :=
  ∀ s : State,
    exec .sha1Init s = .next { s with
      h1 := #v[0x67452301, 0xEFCDAB89, 0x98BADCFE, 0x10325476, 0xC3D2E1F0], responses := s.responses ++ [[0x00]] } ∧
    acceptFrame [0x10] s = exec .sha1Init s ∧
    ∀ P : List Byte, P ≠ [] → acceptFrame (0x10 :: P) s = .next { s with responses := s.responses ++ [[0x03]] }

/-- R122: `SHA1.LDST S` loads the five words of its payload, big-endian, answers `OK` and changes nothing else; any other
length is rejected. -/
def Obligations.Sha1LoadWritesTheWholeFile : Prop :=
  ∀ s : State,
    (∀ S : List Word, S.length = 5 → ∃ H : Vector Word 5, H.toList = S ∧
      exec (.sha1Ldst S) s = .next { s with h1 := H, responses := s.responses ++ [[0x00]] }) ∧
    (∀ P : List Byte, P.length = 20 → ∃ H : Vector Word 5, (∀ i (h : i < 5), H[i] = memReadWord P (4 * i)) ∧
      acceptFrame (0x11 :: P) s = .next { s with h1 := H, responses := s.responses ++ [[0x00]] }) ∧
    (∀ S : List Word, S.length = 5 → acceptFrame (0x11 :: S.flatMap be32) s = exec (.sha1Ldst S) s) ∧
    ∀ P : List Byte, P.length ≠ 20 → acceptFrame (0x11 :: P) s = .next { s with responses := s.responses ++ [[0x03]] }

/-- R123: `SHA1.COMP` of whole blocks makes `H1` the compression of itself by them, answers `OK` and leaves the sequencer
idle; it changes nothing else but what the spec leaves unspecified after it (`a` to `e`, `W1`, and `alg`, `j` while idle);
with no block `H1` stands. A payload that is not whole blocks is rejected whole. -/
def Obligations.Sha1CompressAbsorbsTheBlocks : Prop :=
  ∀ s : State,
    (∀ Bs : List Block, wholeBlocks Bs = true → ∃ t, exec (.sha1Comp Bs) s = .next t ∧
      t = { s with
        h1 := sha1Compress s.h1 Bs, responses := s.responses ++ [[0x00]], busy := false, phase := .awaitingBlock, blocks := []
        v1 := t.v1, w1 := t.w1, alg := t.alg, j := t.j, draws := t.draws } ∧
      (Bs = [] → t.h1 = s.h1)) ∧
    (∀ Bs : List Block, wholeBlocks Bs = true → s.grain = .command →
      acceptFrame (0x12 :: Bs.flatten) s = exec (.sha1Comp Bs) s) ∧
    ∀ P : List Byte, P.length % 64 ≠ 0 → acceptFrame (0x12 :: P) s = .next { s with responses := s.responses ++ [[0x01]] }

/-- R124: `SHA1.RDST` answers `OK` and the five words big-endian, word 0 first, and changes nothing else; with a payload it
is rejected with no data. -/
def Obligations.Sha1ReadReturnsTheWholeFile : Prop :=
  ∀ s : State,
    exec .sha1Rdst s = .next { s with
      responses := s.responses ++
        [((0x00 : Byte) :: (be32 s.h1[0] ++ be32 s.h1[1] ++ be32 s.h1[2] ++ be32 s.h1[3] ++ be32 s.h1[4]))] } ∧
    acceptFrame [0x13] s = exec .sha1Rdst s ∧
    ∀ P : List Byte, P ≠ [] → acceptFrame (0x13 :: P) s = .next { s with responses := s.responses ++ [[0x03]] }

/-- R151: `SHA256.INIT` loads the eight words of `IV2`, answers `OK` and changes nothing else; with a payload it is rejected. -/
def Obligations.Sha256InitLoadsTheInitialState : Prop :=
  ∀ s : State,
    exec .sha256Init s = .next { s with
      h2 := #v[0x6a09e667, 0xbb67ae85, 0x3c6ef372, 0xa54ff53a, 0x510e527f, 0x9b05688c, 0x1f83d9ab, 0x5be0cd19]
      responses := s.responses ++ [[0x00]] } ∧
    acceptFrame [0x20] s = exec .sha256Init s ∧
    ∀ P : List Byte, P ≠ [] → acceptFrame (0x20 :: P) s = .next { s with responses := s.responses ++ [[0x03]] }

/-- R152: `SHA256.LDST S` loads the eight words of its payload, big-endian, answers `OK` and changes nothing else; any other
length, 20 among them, is rejected. -/
def Obligations.Sha256LoadWritesTheWholeFile : Prop :=
  ∀ s : State,
    (∀ S : List Word, S.length = 8 → ∃ H : Vector Word 8, H.toList = S ∧
      exec (.sha256Ldst S) s = .next { s with h2 := H, responses := s.responses ++ [[0x00]] }) ∧
    (∀ P : List Byte, P.length = 32 → ∃ H : Vector Word 8, (∀ i (h : i < 8), H[i] = memReadWord P (4 * i)) ∧
      acceptFrame (0x21 :: P) s = .next { s with h2 := H, responses := s.responses ++ [[0x00]] }) ∧
    (∀ S : List Word, S.length = 8 → acceptFrame (0x21 :: S.flatMap be32) s = exec (.sha256Ldst S) s) ∧
    ∀ P : List Byte, P.length ≠ 32 → acceptFrame (0x21 :: P) s = .next { s with responses := s.responses ++ [[0x03]] }

/-- R153: `SHA256.COMP` of whole blocks makes `H2` the compression of itself by them, answers `OK` and leaves the sequencer
idle; it changes nothing else but what the spec leaves unspecified after it (`a` to `h`, `W2`, and `alg`, `j` while idle);
with no block `H2` stands. A payload that is not whole blocks is rejected whole. -/
def Obligations.Sha256CompressAbsorbsTheBlocks : Prop :=
  ∀ s : State,
    (∀ Bs : List Block, wholeBlocks Bs = true → ∃ t, exec (.sha256Comp Bs) s = .next t ∧
      t = { s with
        h2 := sha256Compress s.h2 Bs, responses := s.responses ++ [[0x00]], busy := false, phase := .awaitingBlock, blocks := []
        v2 := t.v2, w2 := t.w2, alg := t.alg, j := t.j, draws := t.draws } ∧
      (Bs = [] → t.h2 = s.h2)) ∧
    (∀ Bs : List Block, wholeBlocks Bs = true → s.grain = .command →
      acceptFrame (0x22 :: Bs.flatten) s = exec (.sha256Comp Bs) s) ∧
    ∀ P : List Byte, P.length % 64 ≠ 0 → acceptFrame (0x22 :: P) s = .next { s with responses := s.responses ++ [[0x01]] }

/-- R154: `SHA256.RDST` answers `OK` and the eight words big-endian, word 0 first, and changes nothing else; with a payload
it is rejected with no data. -/
def Obligations.Sha256ReadReturnsTheWholeFile : Prop :=
  ∀ s : State,
    exec .sha256Rdst s = .next { s with
      responses := s.responses ++
        [((0x00 : Byte) :: (be32 s.h2[0] ++ be32 s.h2[1] ++ be32 s.h2[2] ++ be32 s.h2[3] ++
          be32 s.h2[4] ++ be32 s.h2[5] ++ be32 s.h2[6] ++ be32 s.h2[7]))] } ∧
    acceptFrame [0x23] s = exec .sha256Rdst s ∧
    ∀ P : List Byte, P ≠ [] → acceptFrame (0x23 :: P) s = .next { s with responses := s.responses ++ [[0x03]] }

/-- R118, R126, R148, R156: a payload split in two and absorbed by two `COMP` commands, with anything between them that leaves
the state file as it was, gives the state of the one command that carries both. -/
def Obligations.SplitPayloadsChain : Prop :=
  ∀ (s : State) (P Q : List Byte), s.grain = .command → P.length % 64 = 0 → Q.length % 64 = 0 →
    (∃ t w, acceptFrame (0x12 :: P) s = .next t ∧ acceptFrame (0x12 :: (P ++ Q)) s = .next w ∧
      ∀ t' : State, t'.h1 = t.h1 → t'.grain = .command → ∃ u, acceptFrame (0x12 :: Q) t' = .next u ∧ u.h1 = w.h1) ∧
    ∃ t w, acceptFrame (0x22 :: P) s = .next t ∧ acceptFrame (0x22 :: (P ++ Q)) s = .next w ∧
      ∀ t' : State, t'.h2 = t.h2 → t'.grain = .command → ∃ u, acceptFrame (0x22 :: Q) t' = .next u ∧ u.h2 = w.h2

/-- R125, R155: a `COMP` with an empty payload answers `OK` and leaves both state files as they were. -/
def Obligations.EmptyCompressIsTheIdentity : Prop :=
  ∀ s : State, s.grain = .command →
    (∃ t, acceptFrame [0x12] s = .next t ∧ t.h1 = s.h1 ∧ t.h2 = s.h2 ∧ t.responses = s.responses ++ [[0x00]]) ∧
    ∃ t, acceptFrame [0x22] s = .next t ∧ t.h1 = s.h1 ∧ t.h2 = s.h2 ∧ t.responses = s.responses ++ [[0x00]]

/-- R25: no command of one core writes the other core's state, and its effect and its response do not depend on it. -/
def Obligations.CommandsStayInTheirCore : Prop :=
  ∀ (i : Instr) (s : State),
    (∃ t, exec i s = .next t ∧
      (i.alg = .sha1 → t.h2 = s.h2 ∧ t.v2 = s.v2 ∧ t.w2 = s.w2) ∧ (i.alg = .sha256 → t.h1 = s.h1 ∧ t.v1 = s.v1 ∧ t.w1 = s.w1)) ∧
    ∀ s' : State, (i.alg = .sha1 → s'.h1 = s.h1) → (i.alg = .sha256 → s'.h2 = s.h2) →
      ∃ t t' R, exec i s = .next t ∧ exec i s' = .next t' ∧
        (i.alg = .sha1 → t'.h1 = t.h1) ∧ (i.alg = .sha256 → t'.h2 = t.h2) ∧
        t.responses = s.responses ++ [R] ∧ t'.responses = s'.responses ++ [R]

/-- R58: a command of core SHA1 and one of core SHA256 give the same state files and the same two responses in either order. -/
def Obligations.CommandsOfDifferentCoresCommute : Prop :=
  ∀ (i k : Instr) (s : State), i.alg = .sha1 → k.alg = .sha256 →
    ∃ t u t' u' R Q, exec i s = .next t ∧ exec k t = .next u ∧ exec k s = .next t' ∧ exec i t' = .next u' ∧
      u.h1 = u'.h1 ∧ u.h2 = u'.h2 ∧ u.responses = s.responses ++ [R, Q] ∧ u'.responses = s.responses ++ [Q, R]

/-- R53: reading twice returns the same data and changes nothing; `INIT` and `LDST` done twice leave the state file of once. -/
def Obligations.ReadsAreHarmlessAndLoadsIdempotent : Prop :=
  ∀ (i : Instr) (s : State), i.op ≠ .comp →
    ∃ t u R, exec i s = .next t ∧ exec i t = .next u ∧ u = { t with responses := s.responses ++ [R, R] } ∧
      (i.op = .rdst → t = { s with responses := s.responses ++ [R] })

/-! ### Rejection (spec/60_exceptions.md) -/

/-- R171: a `COMP` frame whose payload is not a multiple of 64 bytes is answered `[0x01]` and changes nothing; no other frame
raises `InvalidBlockLength`. -/
def Obligations.BadBlockLengthChangesNothing : Prop :=
  (∀ (s : State) (P : List Byte) (b : Byte), b = 0x12 ∨ b = 0x22 → P.length % 64 ≠ 0 →
    acceptFrame (b :: P) s = .next { s with responses := s.responses ++ [[0x01]] }) ∧
  ∀ (F : Frame) (r : Rejection), decode F = .rejected r → errorOf r = .invalidBlockLength →
    ∃ b P, F = b :: P ∧ (b = 0x12 ∨ b = 0x22) ∧ P.length % 64 ≠ 0

/-- R172, R73: the empty frame and every frame with a reserved opcode byte are answered `[0x02]` and change nothing, whatever
the payload; no other frame raises `InvalidOpcode`. -/
def Obligations.ReservedOpcodeChangesNothing : Prop :=
  (∀ s : State, acceptFrame [] s = .next { s with responses := s.responses ++ [[0x02]] } ∧
    ∀ (b : Byte) (P : List Byte), b ∉ ([0x10, 0x11, 0x12, 0x13, 0x20, 0x21, 0x22, 0x23] : List Byte) →
      acceptFrame (b :: P) s = .next { s with responses := s.responses ++ [[0x02]] }) ∧
  ∀ (F : Frame) (r : Rejection), decode F = .rejected r → errorOf r = .invalidOpcode →
    F = [] ∨ ∃ b P, F = b :: P ∧ b ∉ ([0x10, 0x11, 0x12, 0x13, 0x20, 0x21, 0x22, 0x23] : List Byte)

/-- R173: an `INIT` or `RDST` with a payload and an `LDST` with the wrong number of bytes are answered `[0x03]`, with no data,
and change nothing; no other frame raises `InvalidOperandLength`. -/
def Obligations.BadOperandLengthChangesNothing : Prop :=
  let cause : Byte → List Byte → Prop := fun b P =>
    (b ∈ ([0x10, 0x13, 0x20, 0x23] : List Byte) ∧ P.length ≠ 0) ∨ (b = 0x11 ∧ P.length ≠ 20) ∨ (b = 0x21 ∧ P.length ≠ 32)
  (∀ (s : State) (P : List Byte) (b : Byte), cause b P →
    acceptFrame (b :: P) s = .next { s with responses := s.responses ++ [[0x03]] }) ∧
  ∀ (F : Frame) (r : Rejection), decode F = .rejected r → errorOf r = .invalidOperandLength →
    ∃ b P, F = b :: P ∧ cause b P

/-- A command whose operand has not the length R65 requires, which no frame decodes to, is rejected like the frame it would
stand for: one error status and nothing changed (notes/assumptions/6.md). -/
def Obligations.IllFormedCommandsChangeNothing : Prop :=
  ∀ (i : Instr) (s : State), wellFormed i = false → ∃ e : Error,
    exec i s = .next { s with responses := s.responses ++ [[e.status]] }

/-! ### The port and the step (R56, R70, R195 to R200) -/

/-- R56, R69: a step at an idle block with a frame at the port is the decoded command at the state without that frame; a
RESET still to come draws one step nearer; at the granularity of phases a `COMP` starts instead (R119); a frame that does not
decode is rejected; and with no frame nothing happens (R184). Frames and RESETs as fields of the state are the model's choice
(notes/assumptions/5.md, 11.md), and so is the granularity (notes/assumptions/4.md). -/
def Obligations.StepRunsTheDecodedCommand : Prop :=
  ∀ (s : State), s.busy = false → s.resets.head? ≠ some 0 →
    (s.port = [] → step s = .next { s with resets := s.resets.modifyHead (· - 1) }) ∧
    ∀ F rest, s.port = F :: rest →
      (∀ i, decode F = .ok i → s.grain = .command ∨ compOf i = none →
        step s = exec i { s with port := rest, resets := s.resets.modifyHead (· - 1) }) ∧
      (∀ i c Bs, decode F = .ok i → s.grain = .phase → compOf i = some (c, Bs) →
        step s = .next { s with
          port := rest, resets := s.resets.modifyHead (· - 1)
          busy := true, alg := c, j := 0, phase := .awaitingBlock, blocks := Bs }) ∧
      ∀ r, decode F = .rejected r → ∃ e : Error,
        step s = .next { s with
          port := rest, resets := s.resets.modifyHead (· - 1), responses := s.responses ++ [[e.status]] }

/-- R200: while `busy = 1` every frame is held at the port, in order, and no command can start. -/
def Obligations.FramesAreHeldWhileBusy : Prop :=
  ∀ s t : State, s.busy = true → s.resets.head? ≠ some 0 → step s = .next t →
    t.port = s.port ∧ (t.busy = true → t.blocks = s.blocks ∧ t.alg = s.alg ∧ t.responses = s.responses) ∧
    (t.busy = false → s.phase = .awaitingBlock ∧ s.j = s.blocks.length ∧ t.responses = s.responses ++ [[0x00]])

/-- R70 to R72, R176: a step without RESET sends at most one response, one for each frame it takes off the port or command it
ends; a response is a status byte 0x00 to 0x03, with 20 or 32 data bytes after `OK` only. -/
def Obligations.EveryFrameGetsOneResponse : Prop :=
  ∀ s t : State, s.resets.head? ≠ some 0 → step s = .next t →
    ∃ Rs : List Frame, t.responses = s.responses ++ Rs ∧ Rs.length ≤ 1 ∧ Rs.length + owed t = owed s ∧ ∀ R ∈ Rs, ResponseForm R

/-- R195 to R197: RESET, also in the middle of a command, leaves the sequencer idle, abandons the command, sends no response,
and leaves each word of `H1` and `H2` at an unspecified value, in the model the free value of a new draw
(notes/assumptions/1.md); RESET as an input is the model's form (notes/assumptions/5.md). -/
def Obligations.ResetAbandonsTheCommand : Prop :=
  ∀ s : State, s.resets.head? = some 0 → ∃ t, step s = .next t ∧
    t.busy = false ∧ t.phase = .awaitingBlock ∧ t.blocks = [] ∧ t.responses = s.responses ∧ t.resets = s.resets.tail ∧
    (∀ i (h : i < 5), t.h1[i] = Config.hReset .sha1 s.draws i) ∧ ∀ i (h : i < 8), t.h2[i] = Config.hReset .sha256 s.draws i

/-- R42, R196, as the model reads them (notes/assumptions/1.md): after reset the sequencer is idle, nothing is offered or
sent, and the words of `H1` and `H2` are the open parameter `H_RESET`. -/
def Obligations.ResetStateIsIdleAndOpen : Prop :=
  State.reset.busy = false ∧ State.reset.phase = .awaitingBlock ∧ State.reset.blocks = [] ∧
  State.reset.port = [] ∧ State.reset.responses = [] ∧
  (∀ i (h : i < 5), State.reset.h1[i] = Config.hReset .sha1 0 i) ∧
  (∀ i (h : i < 8), State.reset.h2[i] = Config.hReset .sha256 0 i) ∧
  SequencerLegal State.reset ∧ DatapathCorrect State.reset

/-! ### The sequencer (R31, R32, R119, R149) -/

/-- R119: the five rows of the step machine of core SHA1: START, LOAD, ROUND, FOLD, DONE, each with its condition and all it changes.
The free values are the transients after FOLD and `alg`, `j` after DONE (R28, R30, R42; notes/assumptions/2.md, 3.md); the
granularity of phases is the model's own field (notes/assumptions/4.md). -/
def Obligations.Sha1StepMachineRows : Prop :=
  ∀ s : State, s.resets = [] →
    (∀ P rest, s.busy = false → s.grain = .phase → s.port = (0x12 :: P) :: rest → P.length % 64 = 0 →
      step s = .next { s with
        port := rest, busy := true, alg := .sha1, j := 0, phase := .awaitingBlock, blocks := compOperand P }) ∧
    (s.busy = true → s.alg = .sha1 →
      (s.phase = .awaitingBlock → s.j < s.blocks.length → ∃ W : Vector Word 80,
        step s = .next { s with w1 := W, v1 := ⟨s.h1[0], s.h1[1], s.h1[2], s.h1[3], s.h1[4]⟩, phase := .processingRound 0 } ∧
        (∀ i, i < 16 → readReg W i = blockWord (s.blocks.getD s.j []) i) ∧
        ∀ i, 16 ≤ i → i < 80 → readReg W i = readReg s.w1 i) ∧
      (∀ t, s.phase = .processingRound t → t < 80 → ∃ W : Vector Word 80,
        step s = .next { s with
          w1 := W
          v1 := ⟨s.v1.e + rotl s.v1.a 5 + f1 t s.v1.b s.v1.c s.v1.d + readReg W t + stageConstant t, s.v1.a, rotl s.v1.b 30, s.v1.c, s.v1.d⟩
          phase := if t < 79 then .processingRound (t + 1) else .blockComplete } ∧
        (∀ i, i < 80 → i ≠ t ∨ t < 16 → readReg W i = readReg s.w1 i) ∧
        (16 ≤ t → readReg W t = rotl (readReg s.w1 (t - 3) ^^^ readReg s.w1 (t - 8) ^^^ readReg s.w1 (t - 14) ^^^ readReg s.w1 (t - 16)) 1)) ∧
      (s.phase = .blockComplete → s.j < s.blocks.length → ∃ t : State, step s = .next t ∧
        t = { s with
          h1 := #v[s.h1[0] + s.v1.a, s.h1[1] + s.v1.b, s.h1[2] + s.v1.c, s.h1[3] + s.v1.d, s.h1[4] + s.v1.e]
          j := s.j + 1, phase := .awaitingBlock, v1 := t.v1, w1 := t.w1, draws := t.draws }) ∧
      (s.phase = .awaitingBlock → s.j = s.blocks.length → ∃ t : State, step s = .next t ∧
        t = { s with
          responses := s.responses ++ [[0x00]]
          busy := false, blocks := [], alg := t.alg, j := t.j, draws := t.draws }))

/-- R149: the five rows of the step machine of core SHA256: START, LOAD, ROUND, FOLD, DONE, each with its condition and all it changes.
The free values are the transients after FOLD and `alg`, `j` after DONE (R28, R30, R42; notes/assumptions/2.md, 3.md); the
granularity of phases is the model's own field (notes/assumptions/4.md). -/
def Obligations.Sha256StepMachineRows : Prop :=
  ∀ s : State, s.resets = [] →
    (∀ P rest, s.busy = false → s.grain = .phase → s.port = (0x22 :: P) :: rest → P.length % 64 = 0 →
      step s = .next { s with
        port := rest, busy := true, alg := .sha256, j := 0, phase := .awaitingBlock, blocks := compOperand P }) ∧
    (s.busy = true → s.alg = .sha256 →
      (s.phase = .awaitingBlock → s.j < s.blocks.length → ∃ W : Vector Word 64,
        step s = .next { s with w2 := W, v2 := ⟨s.h2[0], s.h2[1], s.h2[2], s.h2[3], s.h2[4], s.h2[5], s.h2[6], s.h2[7]⟩, phase := .processingRound 0 } ∧
        (∀ i, i < 16 → readReg W i = blockWord (s.blocks.getD s.j []) i) ∧
        ∀ i, 16 ≤ i → i < 64 → readReg W i = readReg s.w2 i) ∧
      (∀ t, s.phase = .processingRound t → t < 64 → ∃ W : Vector Word 64,
        step s = .next { s with
          w2 := W
          v2 :=
            ⟨s.v2.h + bigSigma1 s.v2.e + ch s.v2.e s.v2.f s.v2.g + readReg k2 t + readReg W t +
              (bigSigma0 s.v2.a + maj s.v2.a s.v2.b s.v2.c), s.v2.a, s.v2.b, s.v2.c,
              s.v2.d + (s.v2.h + bigSigma1 s.v2.e + ch s.v2.e s.v2.f s.v2.g + readReg k2 t + readReg W t), s.v2.e, s.v2.f, s.v2.g⟩
          phase := if t < 63 then .processingRound (t + 1) else .blockComplete } ∧
        (∀ i, i < 64 → i ≠ t ∨ t < 16 → readReg W i = readReg s.w2 i) ∧
        (16 ≤ t → readReg W t =
          readReg s.w2 (t - 16) + smallSigma0 (readReg s.w2 (t - 15)) + readReg s.w2 (t - 7) + smallSigma1 (readReg s.w2 (t - 2)))) ∧
      (s.phase = .blockComplete → s.j < s.blocks.length → ∃ t : State, step s = .next t ∧
        t = { s with
          h2 :=
            #v[s.h2[0] + s.v2.a, s.h2[1] + s.v2.b, s.h2[2] + s.v2.c, s.h2[3] + s.v2.d,
              s.h2[4] + s.v2.e, s.h2[5] + s.v2.f, s.h2[6] + s.v2.g, s.h2[7] + s.v2.h]
          j := s.j + 1, phase := .awaitingBlock, v2 := t.v2, w2 := t.w2, draws := t.draws }) ∧
      (s.phase = .awaitingBlock → s.j = s.blocks.length → ∃ t : State, step s = .next t ∧
        t = { s with
          responses := s.responses ++ [[0x00]]
          busy := false, blocks := [], alg := t.alg, j := t.j, draws := t.draws }))

/-- R31, R32: every step keeps the sequencer inside its ranges. -/
def Obligations.StepsKeepTheSequencerLegal : Prop :=
  ∀ s t : State, SequencerLegal s → step s = .next t → SequencerLegal t

/-- R128, R158, R174: from a legal sequencer the block always has a next state: it never faults, hangs or refuses. -/
def Obligations.LegalStatesAlwaysStep : Prop :=
  ∀ s : State, SequencerLegal s → StepRuns s

/-- R113 to R116, R127: through every step of a command the working variables and the schedule are those of the block being
processed, computed from the state file that block began with. -/
def Obligations.StepsKeepTheDatapathCorrect : Prop :=
  ∀ s t : State, SequencerLegal s → DatapathCorrect s → step s = .next t → DatapathCorrect t

/-- R116, R119, R149: while a command runs the state files stand still but for FOLD, which adds the working variables into
the file of the core at work. -/
def Obligations.StateFilesMoveOnlyAtTheFold : Prop :=
  ∀ s t : State, s.busy = true → s.resets.head? ≠ some 0 → step s = .next t →
    (s.phase ≠ .blockComplete → t.h1 = s.h1 ∧ t.h2 = s.h2) ∧
    (s.phase = .blockComplete → t.j = s.j + 1 ∧ t.phase = .awaitingBlock ∧
      (s.alg = .sha1 → t.h1 = fold1 s.h1 s.v1 ∧ t.h2 = s.h2) ∧ (s.alg = .sha256 → t.h2 = fold2 s.h2 s.v2 ∧ t.h1 = s.h1))

/-- R128, R158, R204: every step of a command brings its response exactly one step nearer, START leaves
`82*nb + 1` or `66*nb + 1` steps, and none are left exactly when the block is idle. -/
def Obligations.CommandsEndInTheirStepCount : Prop :=
  (∀ s t : State, SequencerLegal s → s.busy = true → s.resets.head? ≠ some 0 → step s = .next t → stepsLeft s = stepsLeft t + 1) ∧
  (∀ (s : State) (Bs : List Block), stepsLeft (startComp .sha1 Bs s) = 82 * Bs.length + 1 ∧
    stepsLeft (startComp .sha256 Bs s) = 66 * Bs.length + 1) ∧
  ∀ s : State, stepsLeft s = 0 ↔ s.busy = false

/-- R119: the step machine run from START to DONE, `82*nb + 2` steps, ends in the very state of the command executed whole
(`H1` as `SHA1_COMPRESS` makes it, one response), and sends nothing before its last step. The granularity is the model's own
field (notes/assumptions/4.md). That the two states agree in what the spec leaves unspecified as well rests on the model's form
of the free values: the transients and `draws` on notes/assumptions/2.md, `alg` and `j` on notes/assumptions/3.md. -/
def Obligations.Sha1StepMachineIsTheCommand : Prop :=
  ∀ (s : State) (Bs : List Block) (rest : List Frame), Ready s → s.grain = .phase → wholeBlocks Bs = true →
    s.port = encode (.sha1Comp Bs) :: rest →
    Host.Core.run Sys2Proof.core (82 * Bs.length + 2) s = exec (.sha1Comp Bs) { s with port := rest } ∧
    ∀ n, 0 < n → n < 82 * Bs.length + 2 →
      ∃ t : State, Host.Core.run Sys2Proof.core n s = .next t ∧ t.busy = true ∧ t.responses = s.responses

/-- R149: the same for core SHA256, `66*nb + 2` steps. The granularity is the model's own (notes/assumptions/4.md), and the
agreement in the transients, `alg`, `j` and `draws` rests on notes/assumptions/2.md and notes/assumptions/3.md. -/
def Obligations.Sha256StepMachineIsTheCommand : Prop :=
  ∀ (s : State) (Bs : List Block) (rest : List Frame), Ready s → s.grain = .phase → wholeBlocks Bs = true →
    s.port = encode (.sha256Comp Bs) :: rest →
    Host.Core.run Sys2Proof.core (66 * Bs.length + 2) s = exec (.sha256Comp Bs) { s with port := rest } ∧
    ∀ n, 0 < n → n < 66 * Bs.length + 2 →
      ∃ t : State, Host.Core.run Sys2Proof.core n s = .next t ∧ t.busy = true ∧ t.responses = s.responses

/-- R120, R150: however the rounds are grouped, the state file after each block is what the block function gives (R117, R147).
From LOAD to FOLD the step machine leaves that value, and the other core's file, the frame and the responses as they were; a
command executed whole leaves it after its last block, whatever blocks stand before; and rounds done in batches of any sizes make
the working variables that single rounds make. The granularity of phases is the model's own field (notes/assumptions/4.md). -/
def Obligations.EachBlockLeavesTheBlockFunction : Prop :=
  (∀ (s : State) (B : Block), s.busy = true → s.resets = [] → s.phase = .awaitingBlock → s.blocks[s.j]? = some B →
    (s.alg = .sha1 → ∃ t : State, Host.Core.run Sys2Proof.core 82 s = .next t ∧
        t.h1 = sha1Block s.h1 B ∧ t.h2 = s.h2 ∧ t.j = s.j + 1 ∧ t.phase = .awaitingBlock ∧ t.busy = true ∧
        t.alg = s.alg ∧ t.blocks = s.blocks ∧ t.port = s.port ∧ t.responses = s.responses) ∧
    (s.alg = .sha256 → ∃ t : State, Host.Core.run Sys2Proof.core 66 s = .next t ∧
        t.h2 = sha256Block s.h2 B ∧ t.h1 = s.h1 ∧ t.j = s.j + 1 ∧ t.phase = .awaitingBlock ∧ t.busy = true ∧
        t.alg = s.alg ∧ t.blocks = s.blocks ∧ t.port = s.port ∧ t.responses = s.responses)) ∧
  (∀ (s : State) (Bs : List Block) (B : Block), wholeBlocks (Bs ++ [B]) = true →
    (∃ t u : State, exec (.sha1Comp Bs) s = .next t ∧ exec (.sha1Comp (Bs ++ [B])) s = .next u ∧
      u.h1 = sha1Block t.h1 B ∧ t.h2 = s.h2 ∧ u.h2 = s.h2) ∧
    ∃ t u : State, exec (.sha256Comp Bs) s = .next t ∧ exec (.sha256Comp (Bs ++ [B])) s = .next u ∧
      u.h2 = sha256Block t.h2 B ∧ t.h1 = s.h1 ∧ u.h1 = s.h1) ∧
  (∀ (W : Vector Word 80) (v : Work1) (batches : List Nat),
    batches.foldl (fun (x : Work1 × Nat) n => ((List.range' x.2 n).foldl (round1 W) x.1, x.2 + n)) (v, 0) =
      (rounds1 W v batches.sum, batches.sum)) ∧
  ∀ (W : Vector Word 64) (v : Work2) (batches : List Nat),
    batches.foldl (fun (x : Work2 × Nat) n => ((List.range' x.2 n).foldl (round2 W) x.1, x.2 + n)) (v, 0) =
      (rounds2 W v batches.sum, batches.sum)

/-! ### What cannot be seen (R24, R33, R40, R185) -/

/-- R32, R87, R185: the course of a step depends on the opcode and the length of frames alone, never on payload bytes, on
`H1`, `H2` or on the transients. The two states agree also in the model's own fields: the coming RESETs (`resets`,
notes/assumptions/5.md), `grain` (notes/assumptions/4.md) and `draws`. That `alg` and `j`, which the spec leaves unspecified while
idle, agree after DONE and after RESET as well rests on the free values of equal draws (notes/assumptions/3.md), not on R185. -/
def Obligations.CourseDependsOnShapesAlone : Prop :=
  ∀ s t s' : State, ControlAgree s t → step s = .next s' → ∃ t', step t = .next t' ∧ ControlAgree s' t'

/-- R24, R28, R30, R33, R40: two states a host cannot tell apart stay so at every step without RESET: what a command leaves
in the transients reaches no later response. -/
def Obligations.LeftoversNeverReachTheHost : Prop :=
  ∀ s t s' : State, SameToHost s t → s.resets.head? ≠ some 0 → step s = .next s' → ∃ t', step t = .next t' ∧ SameToHost s' t'

/-! ### Whole messages (R78, R199) and the textual form (R76) -/

/-- R78: what the two pseudo-commands expand to; `CALL` returns the compression of the state it was given by the blocks, or,
where the `COMP` is rejected, that state unchanged; `HASH` the same from the initial constants. -/
def Obligations.PseudoCommandsAreTheSourcesCall : Prop :=
  (∀ (S : List Word) (P : List Byte),
    callFrames .sha1 S P = [0x11 :: S.flatMap be32, 0x12 :: P, [0x13]] ∧ hashFrames .sha1 P = [[0x10], 0x12 :: P, [0x13]] ∧
    callFrames .sha256 S P = [0x21 :: S.flatMap be32, 0x22 :: P, [0x23]] ∧ hashFrames .sha256 P = [[0x20], 0x22 :: P, [0x23]]) ∧
  ∀ (s : State) (S : List Word) (P : List Byte) (rest : List Frame), Ready s → s.grain = .command →
    (S.length = 5 → s.port = callFrames .sha1 S P ++ rest → ∃ t : State, Host.Core.run Sys2Proof.core 3 s = .next t ∧
      t.port = rest ∧ t.h2 = s.h2 ∧
      (P.length % 64 = 0 → t.responses = s.responses ++
        [[0x00], [0x00], 0x00 :: (sha1Compress (loadFile 5 S) (compOperand P)).toList.flatMap be32]) ∧
      (P.length % 64 ≠ 0 → t.responses = s.responses ++ [[0x00], [0x01], 0x00 :: S.flatMap be32])) ∧
    (S.length = 8 → s.port = callFrames .sha256 S P ++ rest → ∃ t : State, Host.Core.run Sys2Proof.core 3 s = .next t ∧
      t.port = rest ∧ t.h1 = s.h1 ∧
      (P.length % 64 = 0 → t.responses = s.responses ++
        [[0x00], [0x00], 0x00 :: (sha256Compress (loadFile 8 S) (compOperand P)).toList.flatMap be32]) ∧
      (P.length % 64 ≠ 0 → t.responses = s.responses ++ [[0x00], [0x01], 0x00 :: S.flatMap be32])) ∧
    (s.port = hashFrames .sha1 P ++ rest → ∃ t : State, Host.Core.run Sys2Proof.core 3 s = .next t ∧ t.port = rest ∧
      t.h2 = s.h2 ∧
      (P.length % 64 = 0 → t.responses = s.responses ++
        [[0x00], [0x00], 0x00 :: (sha1Compress iv1 (compOperand P)).toList.flatMap be32]) ∧
      (P.length % 64 ≠ 0 → t.responses = s.responses ++ [[0x00], [0x01], 0x00 :: iv1.toList.flatMap be32])) ∧
    (s.port = hashFrames .sha256 P ++ rest → ∃ t : State, Host.Core.run Sys2Proof.core 3 s = .next t ∧ t.port = rest ∧
      t.h1 = s.h1 ∧
      (P.length % 64 = 0 → t.responses = s.responses ++
        [[0x00], [0x00], 0x00 :: (sha256Compress iv2 (compOperand P)).toList.flatMap be32]) ∧
      (P.length % 64 ≠ 0 → t.responses = s.responses ++ [[0x00], [0x01], 0x00 :: iv2.toList.flatMap be32]))

/-- R198, R199: `INIT`, any division of a message's blocks among `COMP` commands, `RDST`: the response is the digest words of
the whole message, from any state the block may have been in before. -/
def Obligations.DivisionOfAMessageDoesNotMatter : Prop :=
  ∀ (s : State) (Ps : List (List Byte)) (rest : List Frame), Ready s → s.grain = .command → (∀ P ∈ Ps, P.length % 64 = 0) →
    (s.port = [0x10] :: (Ps.map (0x12 :: ·) ++ [0x13] :: rest) →
      ∃ t : State, Host.Core.run Sys2Proof.core (Ps.length + 2) s = .next t ∧ t.port = rest ∧
        t.responses = s.responses ++ List.replicate (Ps.length + 1) [0x00] ++
          [0x00 :: (sha1Compress iv1 (compOperand Ps.flatten)).toList.flatMap be32]) ∧
    (s.port = [0x20] :: (Ps.map (0x22 :: ·) ++ [0x23] :: rest) →
      ∃ t : State, Host.Core.run Sys2Proof.core (Ps.length + 2) s = .next t ∧ t.port = rest ∧
        t.responses = s.responses ++ List.replicate (Ps.length + 1) [0x00] ++
          [0x00 :: (sha256Compress iv2 (compOperand Ps.flatten)).toList.flatMap be32])

/-- R76: letter case is not significant, and a raw frame written byte by byte after `.frame` is that frame. -/
def Obligations.TextIsCaseBlindAndFramesAreLiteral : Prop :=
  (∀ line : List Char, lineFrames (line.map Char.toLower) = lineFrames line ∧ lineFrames (line.map Char.toUpper) = lineFrames line) ∧
  ∀ F : Frame, lineFrames (".frame ".toList ++ hexText F) = some [F]
end

