-- ==== Sys2Proof/Laws/Operands.lean ====
section
/-! SUPPORT. What the operand forms give: words in frames are big-endian, a response holds its words in order, and cutting a
payload into blocks undoes joining them (R45 to R48, R66, R67). -/

namespace Sys2Proof.Machine

theorem be32_length (x : Word) : (be32 x).length = 4 := rfl
theorem bytesOfWords_length (S : List Word) : (S.flatMap be32).length = 4 * S.length := by
  induction S with
  | nil => rfl
  | cons x S ih => simp [ih, be32_length]; omega

theorem memRead_four (P : List Byte) (a : Nat) :
    memRead P a 4 = (((byteAt P a).toNat * 256 + (byteAt P (a + 1)).toNat) * 256 + (byteAt P (a + 2)).toNat) * 256 +
      (byteAt P (a + 3)).toNat := by
  simp [memRead, List.range, List.range.loop]

theorem fromBE32_toNat (b0 b1 b2 b3 : Byte) :
    (fromBE32 b0 b1 b2 b3).toNat = ((b0.toNat * 256 + b1.toNat) * 256 + b2.toNat) * 256 + b3.toNat := by
  simp only [fromBE32, BitVec.toNat_append]
  have h0 := b0.isLt; have h1 := b1.isLt; have h2 := b2.isLt; have h3 := b3.isLt
  rw [← Nat.shiftLeft_add_eq_or_of_lt h1, ← Nat.shiftLeft_add_eq_or_of_lt h2, ← Nat.shiftLeft_add_eq_or_of_lt h3]
  simp only [Nat.shiftLeft_eq]

theorem memReadWord_eq (P : List Byte) (a : Nat) :
    memReadWord P a = fromBE32 (byteAt P a) (byteAt P (a + 1)) (byteAt P (a + 2)) (byteAt P (a + 3)) := by
  apply BitVec.eq_of_toNat_eq
  rw [fromBE32_toNat, memReadWord, memRead_four, BitVec.toNat_ofNat]
  have h0 := (byteAt P a).isLt; have h1 := (byteAt P (a+1)).isLt; have h2 := (byteAt P (a+2)).isLt; have h3 := (byteAt P (a+3)).isLt
  omega

theorem be32_toNat (x : Word) : (be32 x).map BitVec.toNat = [x.toNat / 2^24 % 256, x.toNat / 2^16 % 256, x.toNat / 2^8 % 256, x.toNat % 256] := by
  simp [be32, Nat.shiftRight_eq_div_pow]

theorem memReadWord_cons (P : List Byte) (b : Byte) (a : Nat) : memReadWord (b :: P) (a + 1) = memReadWord P a := by
  simp [memReadWord_eq, byteAt]

theorem memReadWord_be32 (x : Word) (P : List Byte) : memReadWord (be32 x ++ P) 0 = x := by
  apply BitVec.eq_of_toNat_eq
  rw [memReadWord_eq, fromBE32_toNat]
  have h := x.isLt
  simp [be32, byteAt, Nat.shiftRight_eq_div_pow]
  omega

theorem ldstOperand_bytes (S : List Word) : ldstOperand S.length (S.flatMap be32) = S := by
  induction S with
  | nil => rfl
  | cons x S ih =>
    rw [ldstOperand, List.length_cons, List.range_succ_eq_map, List.map_cons, List.map_map, List.flatMap_cons]
    have shift : ∀ i, memReadWord (be32 x ++ S.flatMap be32) (4 * (i + 1)) = memReadWord (S.flatMap be32) (4 * i) := by
      intro i
      rw [show 4 * (i + 1) = 4 * i + 1 + 1 + 1 + 1 by omega]
      simp only [be32, List.cons_append, List.nil_append, memReadWord_cons]
    rw [memReadWord_be32]
    conv_rhs => rw [← ih, ldstOperand]
    exact congrArg _ (List.map_congr_left fun i _ => shift i)

/-- Joining the words read from a payload of whole words gives the payload back. -/
theorem ldstOperand_inverse (n : Nat) (P : List Byte) (h : P.length = 4 * n) : 
    (ldstOperand n P).flatMap be32 = P := by
  induction n generalizing P with
  | zero => simp_all [ldstOperand]
  | succ n ih =>
    obtain ⟨b0, b1, b2, b3, Q, rfl⟩ : ∃ b0 b1 b2 b3 Q, P = b0 :: b1 :: b2 :: b3 :: Q := by
      match P, h with
      | b0 :: b1 :: b2 :: b3 :: Q, _ => exact ⟨b0, b1, b2, b3, Q, rfl⟩
      | [], h => simp at h
      | [_], h => simp at h; omega
      | [_, _], h => simp at h; omega
      | [_, _, _], h => simp at h; omega
    have hQ : Q.length = 4 * n := by simp at h; omega
    have shift : ∀ i, memReadWord (b0 :: b1 :: b2 :: b3 :: Q) (4 * (i + 1)) = memReadWord Q (4 * i) := by
      intro i
      rw [show 4 * (i + 1) = 4 * i + 1 + 1 + 1 + 1 by omega]
      simp only [memReadWord_cons]
    have hd : ldstOperand (n + 1) (b0 :: b1 :: b2 :: b3 :: Q) = fromBE32 b0 b1 b2 b3 :: ldstOperand n Q := by
      rw [ldstOperand, List.range_succ_eq_map, List.map_cons, List.map_map, memReadWord_eq]
      exact congrArg _ (List.map_congr_left fun i _ => shift i)
    have hb : be32 (fromBE32 b0 b1 b2 b3) = [b0, b1, b2, b3] := by
      have h0 := b0.isLt; have h1 := b1.isLt; have h2 := b2.isLt; have h3 := b3.isLt
      simp only [be32, List.cons.injEq, and_true]
      refine ⟨?_, ?_, ?_, ?_⟩ <;> apply BitVec.eq_of_toNat_eq <;> simp [fromBE32_toNat, Nat.shiftRight_eq_div_pow] <;> omega
    rw [hd, List.flatMap_cons, ih Q hQ, hb]; rfl

theorem putByte_end (Q : List Byte) (b : Byte) : putByte Q Q.length b = Q ++ [b] := by
  simp [putByte]

theorem memWrite_end (Q : List Byte) (x : Word) : memWrite Q Q.length 4 x.toNat = Q ++ be32 x := by
  have h := x.isLt
  have step : ∀ (bs : List Byte) (b : Byte), putByte (Q ++ bs) (Q.length + bs.length) b = Q ++ (bs ++ [b]) := by
    intro bs b
    rw [← List.length_append, putByte_end, List.append_assoc]
  have b3 : BitVec.ofNat 8 (x.toNat / 16777216) = x.extractLsb' 24 8 := by
    apply BitVec.eq_of_toNat_eq; simp [Nat.shiftRight_eq_div_pow]
  have b2 : BitVec.ofNat 8 (x.toNat / 65536) = x.extractLsb' 16 8 := by
    apply BitVec.eq_of_toNat_eq; simp [Nat.shiftRight_eq_div_pow]
  have b1 : BitVec.ofNat 8 (x.toNat / 256) = x.extractLsb' 8 8 := by
    apply BitVec.eq_of_toNat_eq; simp [Nat.shiftRight_eq_div_pow]
  have b0 : BitVec.ofNat 8 (x.toNat / 1) = x.extractLsb' 0 8 := by
    apply BitVec.eq_of_toNat_eq; simp
  have s0 := step []; have s1 := fun a => step [a]; have s2 := fun a b => step [a, b]; have s3 := fun a b c => step [a, b, c]
  simp only [List.append_nil, List.nil_append, List.length_nil, List.length_cons, Nat.add_zero, Nat.zero_add, List.cons_append, Nat.reduceAdd] at s0 s1 s2 s3
  simp only [memWrite, List.range, List.range.loop, List.foldl_cons, List.foldl_nil, Nat.add_zero, Nat.reduceSub, Nat.reducePow, b3, b2, b1, b0, s0, s1, s2, s3, be32]

theorem rdstData_eq (H : List Word) : rdstData H = H.flatMap be32 := by
  have : ∀ n, n ≤ H.length → (List.range n).foldl (fun Q i => memWrite Q (4 * i) 4 (H.getD i 0).toNat) [] = (H.take n).flatMap be32 := by
    intro n
    induction n with
    | zero => intro _; rfl
    | succ n ih =>
      intro hn
      rw [List.range_succ, List.foldl_append, ih (by omega)]
      simp only [List.foldl_cons, List.foldl_nil]
      have hl : ((H.take n).flatMap be32).length = 4 * n := by rw [bytesOfWords_length, List.length_take]; omega
      conv_lhs => rw [← hl]
      rw [memWrite_end, List.take_add_one, List.flatMap_append]
      have : H[n]? = some H[n] := List.getElem?_eq_getElem (by omega)
      simp [this, List.getD]
  simpa [rdstData] using this H.length (by omega)

theorem compOperand_eq (P : List Byte) (n : Nat) (h : P.length = 64 * n) :
    compOperand P = (List.range n).map fun j => (P.drop (64 * j)).take 64 := by
  simp [compOperand, h]

theorem compOperand_cons (B : Block) (P : List Byte) (h : B.length = 64) : compOperand (B ++ P) = B :: compOperand P := by
  have e : (B ++ P).length / 64 = P.length / 64 + 1 := by rw [List.length_append, h]; omega
  rw [compOperand, e, List.range_succ_eq_map, List.map_cons, List.map_map, compOperand]
  congr 1
  · simp [← h]
  · apply List.map_congr_left
    intro j _
    have : 64 * (j + 1) = B.length + 64 * j := by omega
    rw [Function.comp, Nat.succ_eq_add_one, this, List.drop_length_add_append]

theorem compOperand_flatten (Bs : List Block) (h : wholeBlocks Bs = true) : compOperand Bs.flatten = Bs := by
  induction Bs with
  | nil => rfl
  | cons B Bs ih =>
    simp only [wholeBlocks, List.all_cons, Bool.and_eq_true, beq_iff_eq] at h
    rw [List.flatten_cons, compOperand_cons B _ h.1, ih h.2]

theorem compOperand_whole (P : List Byte) : wholeBlocks (compOperand P) = true := by
  simp only [wholeBlocks, compOperand, List.all_eq_true, List.mem_map, List.mem_range, beq_iff_eq]
  rintro B ⟨j, hj, rfl⟩
  simp only [List.length_take, List.length_drop]
  omega

theorem flatten_length_of_whole (Bs : List Block) (h : wholeBlocks Bs = true) : Bs.flatten.length = 64 * Bs.length := by
  induction Bs with
  | nil => rfl
  | cons B Bs ih =>
    simp only [wholeBlocks, List.all_cons, Bool.and_eq_true, beq_iff_eq] at h
    rw [List.flatten_cons, List.length_append, ih h.2, h.1, List.length_cons]; omega

theorem compOperand_flatten_inverse (P : List Byte) (h : P.length % 64 = 0) : (compOperand P).flatten = P := by
  obtain ⟨n, hn⟩ : ∃ n, P.length = 64 * n := ⟨P.length / 64, by omega⟩
  induction n generalizing P with
  | zero => simp_all [compOperand]
  | succ n ih =>
    have hd : (P.drop 64).length = 64 * n := by rw [List.length_drop]; omega
    have ht : (P.take 64).length = 64 := by rw [List.length_take]; omega
    conv_lhs => rw [← List.take_append_drop 64 P]
    rw [compOperand_cons _ _ ht, List.flatten_cons, ih _ (by omega) hd, List.take_append_drop]

/-- The blocks of two payloads of whole blocks joined are the blocks of the one, then of the other. -/
theorem compOperand_append (P Q : List Byte) (h : P.length % 64 = 0) : compOperand (P ++ Q) = compOperand P ++ compOperand Q := by
  have hf := compOperand_flatten_inverse P h
  have hw := compOperand_whole P
  generalize compOperand P = Bs at hf hw
  subst hf
  clear h
  induction Bs with
  | nil => rfl
  | cons B Bs ih =>
    simp only [wholeBlocks, List.all_cons, Bool.and_eq_true, beq_iff_eq] at hw
    rw [List.flatten_cons, List.append_assoc, compOperand_cons B _ hw.1, ih hw.2]; rfl

end Sys2Proof.Machine
end

