-- ==== Sys2Proof/Laws/PerInstr.lean ====
section
/-! SUPPORT. The per-command family FrameLength (R75): how many bytes the frame of a well-formed command has. -/

namespace Sys2Proof.Laws.FrameLength

/-- The frame lengths R75 gives: 1 byte, 21 or 33 bytes, `1 + 64*nb` bytes. -/
def frameLength : Instr → Nat
  | .sha1Init => 1
  | .sha1Ldst _ => 21
  | .sha1Comp Bs => 1 + 64 * Bs.length
  | .sha1Rdst => 1
  | .sha256Init => 1
  | .sha256Ldst _ => 33
  | .sha256Comp Bs => 1 + 64 * Bs.length
  | .sha256Rdst => 1

/-- A well-formed command is encoded in a frame of the length R75 gives it. -/
def Statement (i : Instr) : Prop :=
  wellFormed i = true → (encode i).length = frameLength i

theorem sha1Init : Statement .sha1Init := fun _ => rfl

theorem sha1Ldst (S : List Word) : Statement (.sha1Ldst S) := by
  intro h
  have hS : S.length = 5 := by simpa [wellFormed, Alg.nw] using h
  rw [encode, List.length_cons, Machine.bytesOfWords_length, hS]; rfl

theorem sha1Comp (Bs : List Block) : Statement (.sha1Comp Bs) := by
  intro h
  rw [encode, List.length_cons, Machine.flatten_length_of_whole Bs h, Nat.add_comm]; rfl

theorem sha1Rdst : Statement .sha1Rdst := fun _ => rfl

theorem sha256Init : Statement .sha256Init := fun _ => rfl

theorem sha256Ldst (S : List Word) : Statement (.sha256Ldst S) := by
  intro h
  have hS : S.length = 8 := by simpa [wellFormed, Alg.nw] using h
  rw [encode, List.length_cons, Machine.bytesOfWords_length, hS]; rfl

theorem sha256Comp (Bs : List Block) : Statement (.sha256Comp Bs) := by
  intro h
  rw [encode, List.length_cons, Machine.flatten_length_of_whole Bs h, Nat.add_comm]; rfl

theorem sha256Rdst : Statement .sha256Rdst := fun _ => rfl

end Sys2Proof.Laws.FrameLength
end

