-- ==== Sys2Proof/Laws/Registers.lean ====
section
/-! SUPPORT. Reading and writing elements of a register file. -/

namespace Sys2Proof.Machine

theorem readReg_eq_getElem {n : Nat} (X : Vector Word n) (i : Nat) (h : i < n) : readReg X i = X[i] := by
  simp [readReg, Vector.getD, h]

@[simp] theorem readReg_writeReg_same {n : Nat} (X : Vector Word n) (i : Nat) (v : Word) (h : i < n) :
    readReg (writeReg X i v) i = v := by
  simp [readReg, writeReg, Vector.getD, h]

theorem readReg_writeReg_other {n : Nat} (X : Vector Word n) (i k : Nat) (v : Word) (h : i ≠ k) :
    readReg (writeReg X i v) k = readReg X k := by
  by_cases hk : k < n
  · rw [readReg_eq_getElem _ k hk, readReg_eq_getElem _ k hk, writeReg, Vector.getElem_setIfInBounds_ne _ h]
  · simp [readReg, Vector.getD, hk]

/-- Two register files that read the same everywhere are the same. -/
theorem file_ext {n : Nat} {X Y : Vector Word n} (h : ∀ i, i < n → readReg X i = readReg Y i) : X = Y := by
  apply Vector.ext
  intro i hi
  rw [← readReg_eq_getElem X i hi, ← readReg_eq_getElem Y i hi, h i hi]

/-- A file loaded whole holds the words of the operand. -/
theorem loadFile_toList (n : Nat) (S : List Word) (h : S.length = n) : (loadFile n S).toList = S := by
  apply List.ext_getElem
  · simp [h]
  · intro i h1 h2
    simp [loadFile, h2]

end Sys2Proof.Machine
end

