-- ==== Sys2Proof/Laws/State.lean ====
section
/-! SUPPORT. What each named update does to each field of the state, one lemma per field per update. -/

namespace Sys2Proof.Machine

@[simp] theorem respond_h1 (R : Frame) (s : State) : (respond R s).h1 = s.h1 := rfl
@[simp] theorem respond_h2 (R : Frame) (s : State) : (respond R s).h2 = s.h2 := rfl
@[simp] theorem respond_v1 (R : Frame) (s : State) : (respond R s).v1 = s.v1 := rfl
@[simp] theorem respond_v2 (R : Frame) (s : State) : (respond R s).v2 = s.v2 := rfl
@[simp] theorem respond_w1 (R : Frame) (s : State) : (respond R s).w1 = s.w1 := rfl
@[simp] theorem respond_w2 (R : Frame) (s : State) : (respond R s).w2 = s.w2 := rfl
@[simp] theorem respond_busy (R : Frame) (s : State) : (respond R s).busy = s.busy := rfl
@[simp] theorem respond_alg (R : Frame) (s : State) : (respond R s).alg = s.alg := rfl
@[simp] theorem respond_phase (R : Frame) (s : State) : (respond R s).phase = s.phase := rfl
@[simp] theorem respond_j (R : Frame) (s : State) : (respond R s).j = s.j := rfl
@[simp] theorem respond_blocks (R : Frame) (s : State) : (respond R s).blocks = s.blocks := rfl
@[simp] theorem respond_port (R : Frame) (s : State) : (respond R s).port = s.port := rfl
@[simp] theorem respond_responses (R : Frame) (s : State) : (respond R s).responses = s.responses ++ [R] := rfl
@[simp] theorem respond_resets (R : Frame) (s : State) : (respond R s).resets = s.resets := rfl
@[simp] theorem respond_grain (R : Frame) (s : State) : (respond R s).grain = s.grain := rfl
@[simp] theorem respond_draws (R : Frame) (s : State) : (respond R s).draws = s.draws := rfl

@[simp] theorem raise_h1 (e : Error) (s : State) : (raise e s).h1 = s.h1 := rfl
@[simp] theorem raise_h2 (e : Error) (s : State) : (raise e s).h2 = s.h2 := rfl
@[simp] theorem raise_v1 (e : Error) (s : State) : (raise e s).v1 = s.v1 := rfl
@[simp] theorem raise_v2 (e : Error) (s : State) : (raise e s).v2 = s.v2 := rfl
@[simp] theorem raise_w1 (e : Error) (s : State) : (raise e s).w1 = s.w1 := rfl
@[simp] theorem raise_w2 (e : Error) (s : State) : (raise e s).w2 = s.w2 := rfl
@[simp] theorem raise_busy (e : Error) (s : State) : (raise e s).busy = s.busy := rfl
@[simp] theorem raise_alg (e : Error) (s : State) : (raise e s).alg = s.alg := rfl
@[simp] theorem raise_phase (e : Error) (s : State) : (raise e s).phase = s.phase := rfl
@[simp] theorem raise_j (e : Error) (s : State) : (raise e s).j = s.j := rfl
@[simp] theorem raise_blocks (e : Error) (s : State) : (raise e s).blocks = s.blocks := rfl
@[simp] theorem raise_port (e : Error) (s : State) : (raise e s).port = s.port := rfl
@[simp] theorem raise_responses (e : Error) (s : State) : (raise e s).responses = s.responses ++ [[e.status]] := rfl
@[simp] theorem raise_resets (e : Error) (s : State) : (raise e s).resets = s.resets := rfl
@[simp] theorem raise_grain (e : Error) (s : State) : (raise e s).grain = s.grain := rfl
@[simp] theorem raise_draws (e : Error) (s : State) : (raise e s).draws = s.draws := rfl

@[simp] theorem startComp_h1 (c : Alg) (Bs : List Block) (s : State) : (startComp c Bs s).h1 = s.h1 := rfl
@[simp] theorem startComp_h2 (c : Alg) (Bs : List Block) (s : State) : (startComp c Bs s).h2 = s.h2 := rfl
@[simp] theorem startComp_v1 (c : Alg) (Bs : List Block) (s : State) : (startComp c Bs s).v1 = s.v1 := rfl
@[simp] theorem startComp_v2 (c : Alg) (Bs : List Block) (s : State) : (startComp c Bs s).v2 = s.v2 := rfl
@[simp] theorem startComp_w1 (c : Alg) (Bs : List Block) (s : State) : (startComp c Bs s).w1 = s.w1 := rfl
@[simp] theorem startComp_w2 (c : Alg) (Bs : List Block) (s : State) : (startComp c Bs s).w2 = s.w2 := rfl
@[simp] theorem startComp_busy (c : Alg) (Bs : List Block) (s : State) : (startComp c Bs s).busy = true := rfl
@[simp] theorem startComp_alg (c : Alg) (Bs : List Block) (s : State) : (startComp c Bs s).alg = c := rfl
@[simp] theorem startComp_phase (c : Alg) (Bs : List Block) (s : State) : (startComp c Bs s).phase = .awaitingBlock := rfl
@[simp] theorem startComp_j (c : Alg) (Bs : List Block) (s : State) : (startComp c Bs s).j = 0 := rfl
@[simp] theorem startComp_blocks (c : Alg) (Bs : List Block) (s : State) : (startComp c Bs s).blocks = Bs := rfl
@[simp] theorem startComp_port (c : Alg) (Bs : List Block) (s : State) : (startComp c Bs s).port = s.port := rfl
@[simp] theorem startComp_responses (c : Alg) (Bs : List Block) (s : State) : (startComp c Bs s).responses = s.responses := rfl
@[simp] theorem startComp_resets (c : Alg) (Bs : List Block) (s : State) : (startComp c Bs s).resets = s.resets := rfl
@[simp] theorem startComp_grain (c : Alg) (Bs : List Block) (s : State) : (startComp c Bs s).grain = s.grain := rfl
@[simp] theorem startComp_draws (c : Alg) (Bs : List Block) (s : State) : (startComp c Bs s).draws = s.draws := rfl

@[simp] theorem doneComp_h1 (s : State) : (doneComp s).h1 = s.h1 := rfl
@[simp] theorem doneComp_h2 (s : State) : (doneComp s).h2 = s.h2 := rfl
@[simp] theorem doneComp_v1 (s : State) : (doneComp s).v1 = s.v1 := rfl
@[simp] theorem doneComp_v2 (s : State) : (doneComp s).v2 = s.v2 := rfl
@[simp] theorem doneComp_w1 (s : State) : (doneComp s).w1 = s.w1 := rfl
@[simp] theorem doneComp_w2 (s : State) : (doneComp s).w2 = s.w2 := rfl
@[simp] theorem doneComp_busy (s : State) : (doneComp s).busy = false := rfl
@[simp] theorem doneComp_alg (s : State) : (doneComp s).alg = Config.freeAlg s.draws := rfl
@[simp] theorem doneComp_phase (s : State) : (doneComp s).phase = .awaitingBlock := rfl
@[simp] theorem doneComp_j (s : State) : (doneComp s).j = Config.freeIndex s.draws := rfl
@[simp] theorem doneComp_blocks (s : State) : (doneComp s).blocks = [] := rfl
@[simp] theorem doneComp_port (s : State) : (doneComp s).port = s.port := rfl
@[simp] theorem doneComp_responses (s : State) : (doneComp s).responses = s.responses ++ [[statusOk]] := rfl
@[simp] theorem doneComp_resets (s : State) : (doneComp s).resets = s.resets := rfl
@[simp] theorem doneComp_grain (s : State) : (doneComp s).grain = s.grain := rfl
@[simp] theorem doneComp_draws (s : State) : (doneComp s).draws = s.draws + 1 := rfl

@[simp] theorem leaveWork1_h1 (s : State) : (leaveWork1 s).h1 = s.h1 := rfl
@[simp] theorem leaveWork1_h2 (s : State) : (leaveWork1 s).h2 = s.h2 := rfl
@[simp] theorem leaveWork1_v1 (s : State) : (leaveWork1 s).v1 = freeWork1 s.draws := rfl
@[simp] theorem leaveWork1_v2 (s : State) : (leaveWork1 s).v2 = s.v2 := rfl
@[simp] theorem leaveWork1_w1 (s : State) : (leaveWork1 s).w1 = freeSchedule1 s.draws := rfl
@[simp] theorem leaveWork1_w2 (s : State) : (leaveWork1 s).w2 = s.w2 := rfl
@[simp] theorem leaveWork1_busy (s : State) : (leaveWork1 s).busy = s.busy := rfl
@[simp] theorem leaveWork1_alg (s : State) : (leaveWork1 s).alg = s.alg := rfl
@[simp] theorem leaveWork1_phase (s : State) : (leaveWork1 s).phase = s.phase := rfl
@[simp] theorem leaveWork1_j (s : State) : (leaveWork1 s).j = s.j := rfl
@[simp] theorem leaveWork1_blocks (s : State) : (leaveWork1 s).blocks = s.blocks := rfl
@[simp] theorem leaveWork1_port (s : State) : (leaveWork1 s).port = s.port := rfl
@[simp] theorem leaveWork1_responses (s : State) : (leaveWork1 s).responses = s.responses := rfl
@[simp] theorem leaveWork1_resets (s : State) : (leaveWork1 s).resets = s.resets := rfl
@[simp] theorem leaveWork1_grain (s : State) : (leaveWork1 s).grain = s.grain := rfl
@[simp] theorem leaveWork1_draws (s : State) : (leaveWork1 s).draws = s.draws + 1 := rfl

@[simp] theorem leaveWork2_h1 (s : State) : (leaveWork2 s).h1 = s.h1 := rfl
@[simp] theorem leaveWork2_h2 (s : State) : (leaveWork2 s).h2 = s.h2 := rfl
@[simp] theorem leaveWork2_v1 (s : State) : (leaveWork2 s).v1 = s.v1 := rfl
@[simp] theorem leaveWork2_v2 (s : State) : (leaveWork2 s).v2 = freeWork2 s.draws := rfl
@[simp] theorem leaveWork2_w1 (s : State) : (leaveWork2 s).w1 = s.w1 := rfl
@[simp] theorem leaveWork2_w2 (s : State) : (leaveWork2 s).w2 = freeSchedule2 s.draws := rfl
@[simp] theorem leaveWork2_busy (s : State) : (leaveWork2 s).busy = s.busy := rfl
@[simp] theorem leaveWork2_alg (s : State) : (leaveWork2 s).alg = s.alg := rfl
@[simp] theorem leaveWork2_phase (s : State) : (leaveWork2 s).phase = s.phase := rfl
@[simp] theorem leaveWork2_j (s : State) : (leaveWork2 s).j = s.j := rfl
@[simp] theorem leaveWork2_blocks (s : State) : (leaveWork2 s).blocks = s.blocks := rfl
@[simp] theorem leaveWork2_port (s : State) : (leaveWork2 s).port = s.port := rfl
@[simp] theorem leaveWork2_responses (s : State) : (leaveWork2 s).responses = s.responses := rfl
@[simp] theorem leaveWork2_resets (s : State) : (leaveWork2 s).resets = s.resets := rfl
@[simp] theorem leaveWork2_grain (s : State) : (leaveWork2 s).grain = s.grain := rfl
@[simp] theorem leaveWork2_draws (s : State) : (leaveWork2 s).draws = s.draws + 1 := rfl

@[simp] theorem leaveBlocks1_h1 (n : Nat) (s : State) : (leaveBlocks1 n s).h1 = s.h1 := by cases n <;> rfl
@[simp] theorem leaveBlocks1_h2 (n : Nat) (s : State) : (leaveBlocks1 n s).h2 = s.h2 := by cases n <;> rfl
@[simp] theorem leaveBlocks1_v2 (n : Nat) (s : State) : (leaveBlocks1 n s).v2 = s.v2 := by cases n <;> rfl
@[simp] theorem leaveBlocks1_w2 (n : Nat) (s : State) : (leaveBlocks1 n s).w2 = s.w2 := by cases n <;> rfl
@[simp] theorem leaveBlocks1_busy (n : Nat) (s : State) : (leaveBlocks1 n s).busy = s.busy := by cases n <;> rfl
@[simp] theorem leaveBlocks1_alg (n : Nat) (s : State) : (leaveBlocks1 n s).alg = s.alg := by cases n <;> rfl
@[simp] theorem leaveBlocks1_phase (n : Nat) (s : State) : (leaveBlocks1 n s).phase = s.phase := by cases n <;> rfl
@[simp] theorem leaveBlocks1_j (n : Nat) (s : State) : (leaveBlocks1 n s).j = s.j := by cases n <;> rfl
@[simp] theorem leaveBlocks1_blocks (n : Nat) (s : State) : (leaveBlocks1 n s).blocks = s.blocks := by cases n <;> rfl
@[simp] theorem leaveBlocks1_port (n : Nat) (s : State) : (leaveBlocks1 n s).port = s.port := by cases n <;> rfl
@[simp] theorem leaveBlocks1_responses (n : Nat) (s : State) : (leaveBlocks1 n s).responses = s.responses := by cases n <;> rfl
@[simp] theorem leaveBlocks1_resets (n : Nat) (s : State) : (leaveBlocks1 n s).resets = s.resets := by cases n <;> rfl
@[simp] theorem leaveBlocks1_grain (n : Nat) (s : State) : (leaveBlocks1 n s).grain = s.grain := by cases n <;> rfl
@[simp] theorem leaveBlocks1_draws (n : Nat) (s : State) : (leaveBlocks1 n s).draws = s.draws + n := by cases n <;> rfl

@[simp] theorem leaveBlocks2_h1 (n : Nat) (s : State) : (leaveBlocks2 n s).h1 = s.h1 := by cases n <;> rfl
@[simp] theorem leaveBlocks2_h2 (n : Nat) (s : State) : (leaveBlocks2 n s).h2 = s.h2 := by cases n <;> rfl
@[simp] theorem leaveBlocks2_v1 (n : Nat) (s : State) : (leaveBlocks2 n s).v1 = s.v1 := by cases n <;> rfl
@[simp] theorem leaveBlocks2_w1 (n : Nat) (s : State) : (leaveBlocks2 n s).w1 = s.w1 := by cases n <;> rfl
@[simp] theorem leaveBlocks2_busy (n : Nat) (s : State) : (leaveBlocks2 n s).busy = s.busy := by cases n <;> rfl
@[simp] theorem leaveBlocks2_alg (n : Nat) (s : State) : (leaveBlocks2 n s).alg = s.alg := by cases n <;> rfl
@[simp] theorem leaveBlocks2_phase (n : Nat) (s : State) : (leaveBlocks2 n s).phase = s.phase := by cases n <;> rfl
@[simp] theorem leaveBlocks2_j (n : Nat) (s : State) : (leaveBlocks2 n s).j = s.j := by cases n <;> rfl
@[simp] theorem leaveBlocks2_blocks (n : Nat) (s : State) : (leaveBlocks2 n s).blocks = s.blocks := by cases n <;> rfl
@[simp] theorem leaveBlocks2_port (n : Nat) (s : State) : (leaveBlocks2 n s).port = s.port := by cases n <;> rfl
@[simp] theorem leaveBlocks2_responses (n : Nat) (s : State) : (leaveBlocks2 n s).responses = s.responses := by cases n <;> rfl
@[simp] theorem leaveBlocks2_resets (n : Nat) (s : State) : (leaveBlocks2 n s).resets = s.resets := by cases n <;> rfl
@[simp] theorem leaveBlocks2_grain (n : Nat) (s : State) : (leaveBlocks2 n s).grain = s.grain := by cases n <;> rfl
@[simp] theorem leaveBlocks2_draws (n : Nat) (s : State) : (leaveBlocks2 n s).draws = s.draws + n := by cases n <;> rfl

@[simp] theorem takeReset_h1 (s : State) : (takeReset s).h1 = resetH1 s.draws := rfl
@[simp] theorem takeReset_h2 (s : State) : (takeReset s).h2 = resetH2 s.draws := rfl
@[simp] theorem takeReset_v1 (s : State) : (takeReset s).v1 = freeWork1 s.draws := rfl
@[simp] theorem takeReset_v2 (s : State) : (takeReset s).v2 = freeWork2 s.draws := rfl
@[simp] theorem takeReset_w1 (s : State) : (takeReset s).w1 = freeSchedule1 s.draws := rfl
@[simp] theorem takeReset_w2 (s : State) : (takeReset s).w2 = freeSchedule2 s.draws := rfl
@[simp] theorem takeReset_busy (s : State) : (takeReset s).busy = false := rfl
@[simp] theorem takeReset_alg (s : State) : (takeReset s).alg = Config.freeAlg s.draws := rfl
@[simp] theorem takeReset_phase (s : State) : (takeReset s).phase = .awaitingBlock := rfl
@[simp] theorem takeReset_j (s : State) : (takeReset s).j = Config.freeIndex s.draws := rfl
@[simp] theorem takeReset_blocks (s : State) : (takeReset s).blocks = [] := rfl
@[simp] theorem takeReset_port (s : State) : (takeReset s).port = s.port := rfl
@[simp] theorem takeReset_responses (s : State) : (takeReset s).responses = s.responses := rfl
@[simp] theorem takeReset_resets (s : State) : (takeReset s).resets = s.resets.tail := rfl
@[simp] theorem takeReset_grain (s : State) : (takeReset s).grain = s.grain := rfl
@[simp] theorem takeReset_draws (s : State) : (takeReset s).draws = s.draws + 1 := rfl

@[simp] theorem loadSha1_h1 (B : Block) (s : State) : (loadSha1 B s).h1 = s.h1 := rfl
@[simp] theorem loadSha1_h2 (B : Block) (s : State) : (loadSha1 B s).h2 = s.h2 := rfl
@[simp] theorem loadSha1_v1 (B : Block) (s : State) : (loadSha1 B s).v1 = seed1 s.h1 := rfl
@[simp] theorem loadSha1_v2 (B : Block) (s : State) : (loadSha1 B s).v2 = s.v2 := rfl
@[simp] theorem loadSha1_w1 (B : Block) (s : State) : (loadSha1 B s).w1 = decodeBlock1 B s.w1 := rfl
@[simp] theorem loadSha1_w2 (B : Block) (s : State) : (loadSha1 B s).w2 = s.w2 := rfl
@[simp] theorem loadSha1_busy (B : Block) (s : State) : (loadSha1 B s).busy = s.busy := rfl
@[simp] theorem loadSha1_alg (B : Block) (s : State) : (loadSha1 B s).alg = s.alg := rfl
@[simp] theorem loadSha1_phase (B : Block) (s : State) : (loadSha1 B s).phase = .processingRound 0 := rfl
@[simp] theorem loadSha1_j (B : Block) (s : State) : (loadSha1 B s).j = s.j := rfl
@[simp] theorem loadSha1_blocks (B : Block) (s : State) : (loadSha1 B s).blocks = s.blocks := rfl
@[simp] theorem loadSha1_port (B : Block) (s : State) : (loadSha1 B s).port = s.port := rfl
@[simp] theorem loadSha1_responses (B : Block) (s : State) : (loadSha1 B s).responses = s.responses := rfl
@[simp] theorem loadSha1_resets (B : Block) (s : State) : (loadSha1 B s).resets = s.resets := rfl
@[simp] theorem loadSha1_grain (B : Block) (s : State) : (loadSha1 B s).grain = s.grain := rfl
@[simp] theorem loadSha1_draws (B : Block) (s : State) : (loadSha1 B s).draws = s.draws := rfl

@[simp] theorem loadSha256_h1 (B : Block) (s : State) : (loadSha256 B s).h1 = s.h1 := rfl
@[simp] theorem loadSha256_h2 (B : Block) (s : State) : (loadSha256 B s).h2 = s.h2 := rfl
@[simp] theorem loadSha256_v1 (B : Block) (s : State) : (loadSha256 B s).v1 = s.v1 := rfl
@[simp] theorem loadSha256_v2 (B : Block) (s : State) : (loadSha256 B s).v2 = seed2 s.h2 := rfl
@[simp] theorem loadSha256_w1 (B : Block) (s : State) : (loadSha256 B s).w1 = s.w1 := rfl
@[simp] theorem loadSha256_w2 (B : Block) (s : State) : (loadSha256 B s).w2 = decodeBlock2 B s.w2 := rfl
@[simp] theorem loadSha256_busy (B : Block) (s : State) : (loadSha256 B s).busy = s.busy := rfl
@[simp] theorem loadSha256_alg (B : Block) (s : State) : (loadSha256 B s).alg = s.alg := rfl
@[simp] theorem loadSha256_phase (B : Block) (s : State) : (loadSha256 B s).phase = .processingRound 0 := rfl
@[simp] theorem loadSha256_j (B : Block) (s : State) : (loadSha256 B s).j = s.j := rfl
@[simp] theorem loadSha256_blocks (B : Block) (s : State) : (loadSha256 B s).blocks = s.blocks := rfl
@[simp] theorem loadSha256_port (B : Block) (s : State) : (loadSha256 B s).port = s.port := rfl
@[simp] theorem loadSha256_responses (B : Block) (s : State) : (loadSha256 B s).responses = s.responses := rfl
@[simp] theorem loadSha256_resets (B : Block) (s : State) : (loadSha256 B s).resets = s.resets := rfl
@[simp] theorem loadSha256_grain (B : Block) (s : State) : (loadSha256 B s).grain = s.grain := rfl
@[simp] theorem loadSha256_draws (B : Block) (s : State) : (loadSha256 B s).draws = s.draws := rfl

@[simp] theorem roundSha1_h1 (t : Nat) (s : State) : (roundSha1 t s).h1 = s.h1 := rfl
@[simp] theorem roundSha1_h2 (t : Nat) (s : State) : (roundSha1 t s).h2 = s.h2 := rfl
@[simp] theorem roundSha1_v1 (t : Nat) (s : State) : (roundSha1 t s).v1 = round1 (if 16 ≤ t then extend1 s.w1 t else s.w1) s.v1 t := rfl
@[simp] theorem roundSha1_v2 (t : Nat) (s : State) : (roundSha1 t s).v2 = s.v2 := rfl
@[simp] theorem roundSha1_w1 (t : Nat) (s : State) : (roundSha1 t s).w1 = if 16 ≤ t then extend1 s.w1 t else s.w1 := rfl
@[simp] theorem roundSha1_w2 (t : Nat) (s : State) : (roundSha1 t s).w2 = s.w2 := rfl
@[simp] theorem roundSha1_busy (t : Nat) (s : State) : (roundSha1 t s).busy = s.busy := rfl
@[simp] theorem roundSha1_alg (t : Nat) (s : State) : (roundSha1 t s).alg = s.alg := rfl
@[simp] theorem roundSha1_phase (t : Nat) (s : State) : (roundSha1 t s).phase = if t < 79 then .processingRound (t + 1) else .blockComplete := rfl
@[simp] theorem roundSha1_j (t : Nat) (s : State) : (roundSha1 t s).j = s.j := rfl
@[simp] theorem roundSha1_blocks (t : Nat) (s : State) : (roundSha1 t s).blocks = s.blocks := rfl
@[simp] theorem roundSha1_port (t : Nat) (s : State) : (roundSha1 t s).port = s.port := rfl
@[simp] theorem roundSha1_responses (t : Nat) (s : State) : (roundSha1 t s).responses = s.responses := rfl
@[simp] theorem roundSha1_resets (t : Nat) (s : State) : (roundSha1 t s).resets = s.resets := rfl
@[simp] theorem roundSha1_grain (t : Nat) (s : State) : (roundSha1 t s).grain = s.grain := rfl
@[simp] theorem roundSha1_draws (t : Nat) (s : State) : (roundSha1 t s).draws = s.draws := rfl

@[simp] theorem roundSha256_h1 (t : Nat) (s : State) : (roundSha256 t s).h1 = s.h1 := rfl
@[simp] theorem roundSha256_h2 (t : Nat) (s : State) : (roundSha256 t s).h2 = s.h2 := rfl
@[simp] theorem roundSha256_v1 (t : Nat) (s : State) : (roundSha256 t s).v1 = s.v1 := rfl
@[simp] theorem roundSha256_v2 (t : Nat) (s : State) : (roundSha256 t s).v2 = round2 (if 16 ≤ t then extend2 s.w2 t else s.w2) s.v2 t := rfl
@[simp] theorem roundSha256_w1 (t : Nat) (s : State) : (roundSha256 t s).w1 = s.w1 := rfl
@[simp] theorem roundSha256_w2 (t : Nat) (s : State) : (roundSha256 t s).w2 = if 16 ≤ t then extend2 s.w2 t else s.w2 := rfl
@[simp] theorem roundSha256_busy (t : Nat) (s : State) : (roundSha256 t s).busy = s.busy := rfl
@[simp] theorem roundSha256_alg (t : Nat) (s : State) : (roundSha256 t s).alg = s.alg := rfl
@[simp] theorem roundSha256_phase (t : Nat) (s : State) : (roundSha256 t s).phase = if t < 63 then .processingRound (t + 1) else .blockComplete := rfl
@[simp] theorem roundSha256_j (t : Nat) (s : State) : (roundSha256 t s).j = s.j := rfl
@[simp] theorem roundSha256_blocks (t : Nat) (s : State) : (roundSha256 t s).blocks = s.blocks := rfl
@[simp] theorem roundSha256_port (t : Nat) (s : State) : (roundSha256 t s).port = s.port := rfl
@[simp] theorem roundSha256_responses (t : Nat) (s : State) : (roundSha256 t s).responses = s.responses := rfl
@[simp] theorem roundSha256_resets (t : Nat) (s : State) : (roundSha256 t s).resets = s.resets := rfl
@[simp] theorem roundSha256_grain (t : Nat) (s : State) : (roundSha256 t s).grain = s.grain := rfl
@[simp] theorem roundSha256_draws (t : Nat) (s : State) : (roundSha256 t s).draws = s.draws := rfl

@[simp] theorem foldSha1_h1 (s : State) : (foldSha1 s).h1 = fold1 s.h1 s.v1 := rfl
@[simp] theorem foldSha1_h2 (s : State) : (foldSha1 s).h2 = s.h2 := rfl
@[simp] theorem foldSha1_v1 (s : State) : (foldSha1 s).v1 = freeWork1 s.draws := rfl
@[simp] theorem foldSha1_v2 (s : State) : (foldSha1 s).v2 = s.v2 := rfl
@[simp] theorem foldSha1_w1 (s : State) : (foldSha1 s).w1 = freeSchedule1 s.draws := rfl
@[simp] theorem foldSha1_w2 (s : State) : (foldSha1 s).w2 = s.w2 := rfl
@[simp] theorem foldSha1_busy (s : State) : (foldSha1 s).busy = s.busy := rfl
@[simp] theorem foldSha1_alg (s : State) : (foldSha1 s).alg = s.alg := rfl
@[simp] theorem foldSha1_phase (s : State) : (foldSha1 s).phase = .awaitingBlock := rfl
@[simp] theorem foldSha1_j (s : State) : (foldSha1 s).j = s.j + 1 := rfl
@[simp] theorem foldSha1_blocks (s : State) : (foldSha1 s).blocks = s.blocks := rfl
@[simp] theorem foldSha1_port (s : State) : (foldSha1 s).port = s.port := rfl
@[simp] theorem foldSha1_responses (s : State) : (foldSha1 s).responses = s.responses := rfl
@[simp] theorem foldSha1_resets (s : State) : (foldSha1 s).resets = s.resets := rfl
@[simp] theorem foldSha1_grain (s : State) : (foldSha1 s).grain = s.grain := rfl
@[simp] theorem foldSha1_draws (s : State) : (foldSha1 s).draws = s.draws + 1 := rfl

@[simp] theorem foldSha256_h1 (s : State) : (foldSha256 s).h1 = s.h1 := rfl
@[simp] theorem foldSha256_h2 (s : State) : (foldSha256 s).h2 = fold2 s.h2 s.v2 := rfl
@[simp] theorem foldSha256_v1 (s : State) : (foldSha256 s).v1 = s.v1 := rfl
@[simp] theorem foldSha256_v2 (s : State) : (foldSha256 s).v2 = freeWork2 s.draws := rfl
@[simp] theorem foldSha256_w1 (s : State) : (foldSha256 s).w1 = s.w1 := rfl
@[simp] theorem foldSha256_w2 (s : State) : (foldSha256 s).w2 = freeSchedule2 s.draws := rfl
@[simp] theorem foldSha256_busy (s : State) : (foldSha256 s).busy = s.busy := rfl
@[simp] theorem foldSha256_alg (s : State) : (foldSha256 s).alg = s.alg := rfl
@[simp] theorem foldSha256_phase (s : State) : (foldSha256 s).phase = .awaitingBlock := rfl
@[simp] theorem foldSha256_j (s : State) : (foldSha256 s).j = s.j + 1 := rfl
@[simp] theorem foldSha256_blocks (s : State) : (foldSha256 s).blocks = s.blocks := rfl
@[simp] theorem foldSha256_port (s : State) : (foldSha256 s).port = s.port := rfl
@[simp] theorem foldSha256_responses (s : State) : (foldSha256 s).responses = s.responses := rfl
@[simp] theorem foldSha256_resets (s : State) : (foldSha256 s).resets = s.resets := rfl
@[simp] theorem foldSha256_grain (s : State) : (foldSha256 s).grain = s.grain := rfl
@[simp] theorem foldSha256_draws (s : State) : (foldSha256 s).draws = s.draws + 1 := rfl

@[simp] theorem takeFrame_h1 (rest : List Frame) (s : State) : (takeFrame rest s).h1 = s.h1 := rfl
@[simp] theorem takeFrame_h2 (rest : List Frame) (s : State) : (takeFrame rest s).h2 = s.h2 := rfl
@[simp] theorem takeFrame_v1 (rest : List Frame) (s : State) : (takeFrame rest s).v1 = s.v1 := rfl
@[simp] theorem takeFrame_v2 (rest : List Frame) (s : State) : (takeFrame rest s).v2 = s.v2 := rfl
@[simp] theorem takeFrame_w1 (rest : List Frame) (s : State) : (takeFrame rest s).w1 = s.w1 := rfl
@[simp] theorem takeFrame_w2 (rest : List Frame) (s : State) : (takeFrame rest s).w2 = s.w2 := rfl
@[simp] theorem takeFrame_busy (rest : List Frame) (s : State) : (takeFrame rest s).busy = s.busy := rfl
@[simp] theorem takeFrame_alg (rest : List Frame) (s : State) : (takeFrame rest s).alg = s.alg := rfl
@[simp] theorem takeFrame_phase (rest : List Frame) (s : State) : (takeFrame rest s).phase = s.phase := rfl
@[simp] theorem takeFrame_j (rest : List Frame) (s : State) : (takeFrame rest s).j = s.j := rfl
@[simp] theorem takeFrame_blocks (rest : List Frame) (s : State) : (takeFrame rest s).blocks = s.blocks := rfl
@[simp] theorem takeFrame_port (rest : List Frame) (s : State) : (takeFrame rest s).port = rest := rfl
@[simp] theorem takeFrame_responses (rest : List Frame) (s : State) : (takeFrame rest s).responses = s.responses := rfl
@[simp] theorem takeFrame_resets (rest : List Frame) (s : State) : (takeFrame rest s).resets = s.resets := rfl
@[simp] theorem takeFrame_grain (rest : List Frame) (s : State) : (takeFrame rest s).grain = s.grain := rfl
@[simp] theorem takeFrame_draws (rest : List Frame) (s : State) : (takeFrame rest s).draws = s.draws := rfl

@[simp] theorem countDown_h1 (s : State) : (countDown s).h1 = s.h1 := rfl
@[simp] theorem countDown_h2 (s : State) : (countDown s).h2 = s.h2 := rfl
@[simp] theorem countDown_v1 (s : State) : (countDown s).v1 = s.v1 := rfl
@[simp] theorem countDown_v2 (s : State) : (countDown s).v2 = s.v2 := rfl
@[simp] theorem countDown_w1 (s : State) : (countDown s).w1 = s.w1 := rfl
@[simp] theorem countDown_w2 (s : State) : (countDown s).w2 = s.w2 := rfl
@[simp] theorem countDown_busy (s : State) : (countDown s).busy = s.busy := rfl
@[simp] theorem countDown_alg (s : State) : (countDown s).alg = s.alg := rfl
@[simp] theorem countDown_phase (s : State) : (countDown s).phase = s.phase := rfl
@[simp] theorem countDown_j (s : State) : (countDown s).j = s.j := rfl
@[simp] theorem countDown_blocks (s : State) : (countDown s).blocks = s.blocks := rfl
@[simp] theorem countDown_port (s : State) : (countDown s).port = s.port := rfl
@[simp] theorem countDown_responses (s : State) : (countDown s).responses = s.responses := rfl
@[simp] theorem countDown_resets (s : State) : (countDown s).resets = s.resets.modifyHead (· - 1) := rfl
@[simp] theorem countDown_grain (s : State) : (countDown s).grain = s.grain := rfl
@[simp] theorem countDown_draws (s : State) : (countDown s).draws = s.draws := rfl

@[simp] theorem offerFirst_h1 (F : Frame) (s : State) : (offerFirst F s).h1 = s.h1 := rfl
@[simp] theorem offerFirst_h2 (F : Frame) (s : State) : (offerFirst F s).h2 = s.h2 := rfl
@[simp] theorem offerFirst_v1 (F : Frame) (s : State) : (offerFirst F s).v1 = s.v1 := rfl
@[simp] theorem offerFirst_v2 (F : Frame) (s : State) : (offerFirst F s).v2 = s.v2 := rfl
@[simp] theorem offerFirst_w1 (F : Frame) (s : State) : (offerFirst F s).w1 = s.w1 := rfl
@[simp] theorem offerFirst_w2 (F : Frame) (s : State) : (offerFirst F s).w2 = s.w2 := rfl
@[simp] theorem offerFirst_busy (F : Frame) (s : State) : (offerFirst F s).busy = false := rfl
@[simp] theorem offerFirst_alg (F : Frame) (s : State) : (offerFirst F s).alg = s.alg := rfl
@[simp] theorem offerFirst_phase (F : Frame) (s : State) : (offerFirst F s).phase = .awaitingBlock := rfl
@[simp] theorem offerFirst_j (F : Frame) (s : State) : (offerFirst F s).j = s.j := rfl
@[simp] theorem offerFirst_blocks (F : Frame) (s : State) : (offerFirst F s).blocks = [] := rfl
@[simp] theorem offerFirst_port (F : Frame) (s : State) : (offerFirst F s).port = F :: s.port := rfl
@[simp] theorem offerFirst_responses (F : Frame) (s : State) : (offerFirst F s).responses = s.responses := rfl
@[simp] theorem offerFirst_resets (F : Frame) (s : State) : (offerFirst F s).resets = [] := rfl
@[simp] theorem offerFirst_grain (F : Frame) (s : State) : (offerFirst F s).grain = .command := rfl
@[simp] theorem offerFirst_draws (F : Frame) (s : State) : (offerFirst F s).draws = s.draws := rfl

end Sys2Proof.Machine
end

