-- ==== Sys2Proof/Laws/Step.lean ====
section
/-! SUPPORT. What a step can do, said once: every outcome of the decoder, of the port, of the sequencer and of `step`. -/

namespace Sys2Proof

theorem decode_opcode (c : Alg) (o : Op) (P : List Byte) : decode (opcode c o :: P) = decodePayload c o P := by
  cases c <;> cases o <;> rfl

/-- A frame begins with an opcode byte of the map, or it is illegal. -/
theorem decode_cases (F : Frame) :
    (∃ c o P, F = opcode c o :: P ∧ decode F = decodePayload c o P) ∨ decode F = .rejected .illegal := by
  cases F with
  | nil => exact .inr rfl
  | cons b P =>
    cases hc : algOf (b.extractLsb' 4 4) with
    | none => exact .inr (by simp [decode, hc])
    | some c =>
      cases ho : opOf (b.extractLsb' 0 4) with
      | none => exact .inr (by simp [decode, ho])
      | some o =>
        have hb : b = opcode c o := by
          cases c <;> cases o <;> revert hc ho <;> revert b <;> decide
        exact .inl ⟨c, o, P, by rw [hb], by simp [decode, hc, ho]⟩

end Sys2Proof

namespace Sys2Proof.Machine

/-- The blocks of a `COMP` the decoder reads have 64 bytes each. -/
theorem decode_comp_whole {F : Frame} {i : Instr} {c : Alg} {Bs : List Block} (h : decode F = .ok i)
    (hc : compOf i = some (c, Bs)) : wholeBlocks Bs = true := by
  rcases decode_cases F with ⟨d, o, P, rfl, hd⟩ | hd
  · rw [hd] at h
    cases d <;> cases o <;> simp only [decodePayload] at h <;> split at h <;> cases h <;>
      simp only [compOf, reduceCtorEq, Option.some.injEq, Prod.mk.injEq] at hc <;> rw [← hc.2] <;> exact compOperand_whole P
  · rw [hd] at h; cases h

/-- The next states of the sequencer while busy: one row of R119 or R149, with its condition. -/
inductive BusyCase (s t : State) : Prop where
  | load1 (alg : s.alg = .sha1) (phase : s.phase = .awaitingBlock) (more : s.j < s.blocks.length)
      (next : t = loadSha1 (s.blocks.getD s.j []) s)
  | load2 (alg : s.alg = .sha256) (phase : s.phase = .awaitingBlock) (more : s.j < s.blocks.length)
      (next : t = loadSha256 (s.blocks.getD s.j []) s)
  | round1 (r : Nat) (alg : s.alg = .sha1) (phase : s.phase = .processingRound r) (bound : r < 80) (next : t = roundSha1 r s)
  | round2 (r : Nat) (alg : s.alg = .sha256) (phase : s.phase = .processingRound r) (bound : r < 64)
      (next : t = roundSha256 r s)
  | fold1 (alg : s.alg = .sha1) (phase : s.phase = .blockComplete) (more : s.j < s.blocks.length) (next : t = foldSha1 s)
  | fold2 (alg : s.alg = .sha256) (phase : s.phase = .blockComplete) (more : s.j < s.blocks.length) (next : t = foldSha256 s)
  | done (phase : s.phase = .awaitingBlock) (last : s.j = s.blocks.length) (next : t = doneComp s)

theorem busyStep_cases {s t : State} (h : busyStep s = .next t) : BusyCase s t := by
  unfold busyStep at h
  split at h
  · split at h
    · cases h
      unfold loadStep
      split
      · exact .load1 ‹_› ‹_› ‹_› rfl
      · exact .load2 ‹_› ‹_› ‹_› rfl
    · split at h
      · cases h; exact .done ‹_› ‹_› rfl
      · cases h
  · split at h
    · cases h
      rename_i hr
      unfold roundStep
      split <;> rename_i ha <;> rw [ha] at hr
      · exact .round1 _ ha ‹_› hr rfl
      · exact .round2 _ ha ‹_› hr rfl
    · cases h
  · split at h
    · cases h
      unfold foldStep
      split
      · exact .fold1 ‹_› ‹_› ‹_› rfl
      · exact .fold2 ‹_› ‹_› ‹_› rfl
    · cases h

/-- Inside the ranges of R31 one row of R119 or R149 is enabled. -/
theorem busyStep_answers {s : State} (hj : s.j ≤ s.blocks.length) (hl : s.phase ≠ .awaitingBlock → s.j < s.blocks.length)
    (ht : ∀ t, s.phase = .processingRound t → t < s.alg.nr) : ∃ t, busyStep s = .next t := by
  unfold busyStep
  split
  · split
    · exact ⟨_, rfl⟩
    · exact ⟨_, if_pos (by omega)⟩
  · exact ⟨_, if_pos (ht _ ‹_›)⟩
  · exact ⟨_, if_pos (hl (by simp [*]))⟩

/-- The outcomes of a step: RESET, the sequencer, nothing, or one of the three ways to take a frame. -/
inductive StepCase (s : State) (o : Host.Outcome State Fault Refusal) : Prop where
  | reset (due : s.resets.head? = some 0) (out : o = .next (takeReset s))
  | busy (notDue : s.resets.head? ≠ some 0) (busy : s.busy = true) (out : o = busyStep (countDown s))
  | idle (notDue : s.resets.head? ≠ some 0) (idle : s.busy = false) (port : s.port = []) (out : o = .next (countDown s))
  | rejected (F : Frame) (rest : List Frame) (r : Rejection) (notDue : s.resets.head? ≠ some 0) (idle : s.busy = false)
      (port : s.port = F :: rest) (decoded : decode F = .rejected r)
      (out : o = .next (raise (errorOf r) (takeFrame rest (countDown s))))
  | command (F : Frame) (rest : List Frame) (i : Instr) (notDue : s.resets.head? ≠ some 0) (idle : s.busy = false)
      (port : s.port = F :: rest) (decoded : decode F = .ok i) (whole : s.grain = .command ∨ compOf i = none)
      (out : o = exec i (takeFrame rest (countDown s)))
  | start (F : Frame) (rest : List Frame) (i : Instr) (c : Alg) (Bs : List Block) (notDue : s.resets.head? ≠ some 0)
      (idle : s.busy = false) (port : s.port = F :: rest) (decoded : decode F = .ok i) (grain : s.grain = .phase)
      (comp : compOf i = some (c, Bs)) (out : o = .next (startComp c Bs (takeFrame rest (countDown s))))

/-- A decoded command is started at the granularity of phases, and run whole otherwise. -/
theorem startCommand_cases (i : Instr) (s : State) :
    ((s.grain = .command ∨ compOf i = none) ∧ startCommand i s = exec i s) ∨
      ∃ c Bs, s.grain = .phase ∧ compOf i = some (c, Bs) ∧ startCommand i s = .next (startComp c Bs s) := by
  unfold startCommand
  cases hg : s.grain with
  | command => exact .inl ⟨.inl rfl, rfl⟩
  | phase =>
    cases hc : compOf i with
    | none => exact .inl ⟨.inr rfl, rfl⟩
    | some p => exact .inr ⟨p.1, p.2, rfl, rfl, rfl⟩

theorem step_cases (s : State) : StepCase s (step s) := by
  unfold step runStep
  split
  · exact .reset ‹_› rfl
  · rename_i hr
    unfold advance
    split
    · exact .busy hr ‹_› rfl
    · exact .idle hr ‹_› ‹_› rfl
    · rename_i F rest hb hp
      unfold acceptFrame
      split
      · rename_i i hd
        rcases startCommand_cases i (takeFrame rest (countDown s)) with ⟨hw, he⟩ | ⟨c, Bs, hg, hc, he⟩
        · exact .command F rest i hr hb hp hd hw he
        · exact .start F rest i c Bs hr hb hp hd hg hc he
      · exact .rejected F rest _ hr hb hp ‹_› rfl

/-- A frame the decoder rejects is answered by its status alone. -/
theorem acceptFrame_rejected {F : Frame} {r : Rejection} (s : State) (h : decode F = .rejected r) :
    acceptFrame F s = .next (raise (errorOf r) s) := by
  simp [acceptFrame, h]

/-- A frame that decodes, run whole, is its command. -/
theorem acceptFrame_command {F : Frame} {i : Instr} (s : State) (h : decode F = .ok i)
    (hw : s.grain = .command ∨ compOf i = none) : acceptFrame F s = exec i s := by
  simp only [acceptFrame, h, startCommand]
  rcases hw with hg | hc
  · rw [hg]
  · rw [hc]; cases s.grain <;> rfl

/-- Every command answers a next state with one response more; it leaves the port, the RESET input and the granularity as
they were, and an idle sequencer idle. -/
theorem exec_answers (i : Instr) (s : State) :
    ∃ t, exec i s = .next t ∧ (∃ R, t.responses = s.responses ++ [R]) ∧ t.port = s.port ∧ t.resets = s.resets ∧
      t.grain = s.grain ∧ (s.busy = false → t.busy = false) ∧ (s.phase = .awaitingBlock → t.phase = .awaitingBlock) ∧
      (s.blocks = [] → t.blocks = []) := by
  cases i <;>
    simp only [exec, execSha1Init, execSha1Ldst, execSha1Comp, execSha1Rdst, execSha256Init, execSha256Ldst,
      execSha256Comp, execSha256Rdst]
  all_goals (try split)
  all_goals
    exact ⟨_, rfl, ⟨_, by simp; try rfl⟩, by simp, by simp, by simp, by simp, by simp, by simp⟩

end Sys2Proof.Machine
end

