-- ==== Sys2Proof/Laws/Run.lean ====
section
/-! SUPPORT. Runs of the machine, one step at a time, and the two shapes of a step when no RESET is coming. -/

namespace Sys2Proof.Machine

theorem core_run_succ (M : Host.Core) (n : Nat) (s t : M.State) (h : M.step s = .next t) : M.run (n + 1) s = M.run n t := by
  simp only [Host.Core.run, h]

theorem core_run_add (M : Host.Core) (n m : Nat) (s t : M.State) (h : M.run n s = .next t) : M.run (n + m) s = M.run m t := by
  induction n generalizing s with
  | zero => simp only [Host.Core.run] at h; cases h; rw [Nat.zero_add]
  | succ n ih =>
    rw [show n + 1 + m = (n + m) + 1 by omega]
    cases hs : M.step s with
    | next u => rw [core_run_succ M _ s u hs] at h ⊢; exact ih u h
    | fault r => simp [Host.Core.run, hs] at h
    | refused r => simp [Host.Core.run, hs] at h

/-- A run whose first step is known. -/
theorem run_succ (n : Nat) (s t : State) (h : step s = .next t) :
    Host.Core.run Sys2Proof.core (n + 1) s = Host.Core.run Sys2Proof.core n t :=
  core_run_succ Sys2Proof.core n s t h

/-- A run cut in two. -/
theorem run_add (n m : Nat) (s t : State) (h : Host.Core.run Sys2Proof.core n s = .next t) :
    Host.Core.run Sys2Proof.core (n + m) s = Host.Core.run Sys2Proof.core m t :=
  core_run_add Sys2Proof.core n m s t h

theorem countDown_of_no_reset {s : State} (hr : s.resets = []) : countDown s = s := by
  cases s; simp only at hr; subst hr; rfl

/-- With no RESET coming, an idle block accepts the frame at the head of its port. -/
theorem step_idle {s : State} {F : Frame} {rest : List Frame} (hb : s.busy = false) (hr : s.resets = [])
    (hp : s.port = F :: rest) : step s = acceptFrame F { s with port := rest } := by
  simp [step, runStep, hr, countDown_of_no_reset hr, advance, hb, hp, takeFrame]

/-- With no RESET coming, a busy block takes the sequencer's step. -/
theorem step_busy {s : State} (hb : s.busy = true) (hr : s.resets = []) : step s = busyStep s := by
  simp [step, runStep, hr, countDown_of_no_reset hr, advance, hb]

end Sys2Proof.Machine
end

