-- ==== Sys2Proof/Laws/Sha1.lean ====
section
/-! SUPPORT. The schedule and the rounds of core SHA1: every schedule word by its recurrence, whatever the array held before
(R111, R112, R127), and one round more (R115). -/

namespace Sys2Proof.Machine

theorem decodeBlock1_read (B : Block) (W : Vector Word 80) (i : Nat) (h : i < 16) :
    readReg (decodeBlock1 B W) i = blockWord B i := by
  have : ∀ n, n ≤ 16 → ∀ k, k < n →
      readReg ((List.range n).foldl (fun W i => writeReg W i (blockWord B i)) W) k = blockWord B k := by
    intro n
    induction n with
    | zero => intro _ k hk; omega
    | succ n ih =>
      intro hn k hk
      rw [List.range_succ, List.foldl_append]
      simp only [List.foldl_cons, List.foldl_nil]
      by_cases hkn : k = n
      · subst hkn; rw [readReg_writeReg_same _ _ _ (by omega)]
      · rw [readReg_writeReg_other _ _ _ _ (by omega)]; exact ih (by omega) k (by omega)
  exact this 16 (by omega) i h

theorem extend1_read_other (W : Vector Word 80) (t i : Nat) (h : i ≠ t) : readReg (extend1 W t) i = readReg W i :=
  readReg_writeReg_other _ _ _ _ (Ne.symm h)

theorem extend1_read_same (W : Vector Word 80) (t : Nat) (h : t < 80) :
    readReg (extend1 W t) t =
      rotl (readReg W (t - 3) ^^^ readReg W (t - 8) ^^^ readReg W (t - 14) ^^^ readReg W (t - 16)) 1 :=
  readReg_writeReg_same _ _ _ h

/-- The schedule after `n` of its computed words. -/
def schedulePart1 (B : Block) (W : Vector Word 80) (n : Nat) : Vector Word 80 :=
  (List.range' 16 n).foldl extend1 (decodeBlock1 B W)

theorem schedulePart1_zero (B : Block) (W : Vector Word 80) : schedulePart1 B W 0 = decodeBlock1 B W := by
  simp only [schedulePart1, List.range'_zero, List.foldl_nil]

theorem schedule1_eq_part (B : Block) : schedule1 B = schedulePart1 B (Vector.replicate 80 0) 64 := rfl

theorem schedulePart1_succ (B : Block) (W : Vector Word 80) (n : Nat) :
    schedulePart1 B W (n + 1) = extend1 (schedulePart1 B W n) (16 + n) := by
  simp [schedulePart1, List.range'_concat]

theorem schedulePart1_stable (B : Block) (W : Vector Word 80) (n m i : Nat) (hn : n ≤ m) (hi : i < 16 + n) :
    readReg (schedulePart1 B W m) i = readReg (schedulePart1 B W n) i := by
  induction m with
  | zero => simp [Nat.le_zero.mp hn]
  | succ m ih =>
    rcases Nat.eq_or_lt_of_le hn with rfl | hlt
    · rfl
    · rw [schedulePart1_succ, extend1_read_other _ _ _ (by omega)]; exact ih (by omega)

theorem schedule1_read_low (B : Block) (i : Nat) (h : i < 16) : readReg (schedule1 B) i = blockWord B i := by
  rw [schedule1_eq_part, schedulePart1_stable B _ 0 64 i (by omega) (by omega), schedulePart1_zero]
  exact decodeBlock1_read B _ i h

theorem schedule1_read_high (B : Block) (t : Nat) (h : 16 ≤ t) (h' : t < 80) :
    readReg (schedule1 B) t =
      rotl (readReg (schedule1 B) (t - 3) ^^^ readReg (schedule1 B) (t - 8) ^^^ readReg (schedule1 B) (t - 14) ^^^
        readReg (schedule1 B) (t - 16)) 1 := by
  have st : ∀ i, i < t → readReg (schedule1 B) i = readReg (schedulePart1 B (Vector.replicate 80 0) (t - 16)) i := by
    intro i hi
    rw [schedule1_eq_part, schedulePart1_stable B _ (t - 16) 64 i (by omega) (by omega)]
  have e : readReg (schedule1 B) t = readReg (schedulePart1 B (Vector.replicate 80 0) (t - 16 + 1)) t := by
    rw [schedule1_eq_part, schedulePart1_stable B _ (t - 16 + 1) 64 t (by omega) (by omega)]
  rw [e, schedulePart1_succ, show 16 + (t - 16) = t by omega, extend1_read_same _ _ h',
    st _ (by omega), st _ (by omega), st _ (by omega), st _ (by omega)]

theorem rounds1_succ (W : Vector Word 80) (v : Work1) (n : Nat) : rounds1 W v (n + 1) = round1 W (rounds1 W v n) n := by
  simp [rounds1, List.range_succ]

theorem round1_congr {W W' : Vector Word 80} (v : Work1) (t : Nat) (h : readReg W t = readReg W' t) :
    round1 W v t = round1 W' v t := by
  simp [round1, h]

/-- Computing word `n` in an array that agrees with the schedule so far makes it agree one word further (R127, R157). -/
theorem extend1_keeps_schedule (B : Block) (n : Nat) (W : Vector Word 80) (hn : n < 80)
    (h : ∀ i, i < max 16 n → readReg W i = readReg (schedule1 B) i) (i : Nat) (hi : i < max 16 (n + 1)) :
    readReg (if 16 ≤ n then extend1 W n else W) i = readReg (schedule1 B) i := by
  by_cases hg : 16 ≤ n
  · rw [if_pos hg]
    by_cases hin : i = n
    · subst hin
      rw [extend1_read_same _ _ hn, schedule1_read_high B _ hg hn, h _ (by omega), h _ (by omega), h _ (by omega),
        h _ (by omega)]
    · rw [extend1_read_other _ _ _ hin]; exact h i (by omega)
  · rw [if_neg hg]; exact h i (by omega)

/-- Compressing by two lists of blocks, one after the other (R118). -/
theorem sha1Compress_append (H : Vector Word 5) (As Bs : List Block) :
    sha1Compress H (As ++ Bs) = sha1Compress (sha1Compress H As) Bs := by
  simp [sha1Compress]

end Sys2Proof.Machine
end

