-- ==== Sys2Proof/Laws/Sha256.lean ====
section
/-! SUPPORT. The schedule and the rounds of core SHA256: every schedule word by its recurrence, whatever the array held before
(R141, R142, R157), and one round more (R145). -/

namespace Sys2Proof.Machine

/-- `K2[t]` stands in row `t / 4` of the table of R38, at place `t % 4`. -/
theorem readReg_k2 : ∀ t : Fin 64, readReg k2 t = readReg (k2Rows[t.val / 4]'(by omega)) (t.val % 4) := by
  decide +kernel

theorem decodeBlock2_read (B : Block) (W : Vector Word 64) (i : Nat) (h : i < 16) :
    readReg (decodeBlock2 B W) i = blockWord B i := by
  have : ∀ n, n ≤ 16 → ∀ k, k < n →
      readReg ((List.range n).foldl (fun W i => writeReg W i (blockWord B i)) W) k = blockWord B k := by
    intro n
    induction n with
    | zero => intro _ k hk; omega
    | succ n ih =>
      intro hn k hk
      rw [List.range_succ, List.foldl_append]
      simp only [List.foldl_cons, List.foldl_nil]
      by_cases hkn : k = n
      · subst hkn; rw [readReg_writeReg_same _ _ _ (by omega)]
      · rw [readReg_writeReg_other _ _ _ _ (by omega)]; exact ih (by omega) k (by omega)
  exact this 16 (by omega) i h

theorem extend2_read_other (W : Vector Word 64) (t i : Nat) (h : i ≠ t) : readReg (extend2 W t) i = readReg W i :=
  readReg_writeReg_other _ _ _ _ (Ne.symm h)

theorem extend2_read_same (W : Vector Word 64) (t : Nat) (h : t < 64) :
    readReg (extend2 W t) t =
      add32 (add32 (add32 (readReg W (t - 16)) (smallSigma0 (readReg W (t - 15)))) (readReg W (t - 7)))
        (smallSigma1 (readReg W (t - 2))) :=
  readReg_writeReg_same _ _ _ h

/-- The schedule after `n` of its computed words. -/
def schedulePart2 (B : Block) (W : Vector Word 64) (n : Nat) : Vector Word 64 :=
  (List.range' 16 n).foldl extend2 (decodeBlock2 B W)

theorem schedulePart2_zero (B : Block) (W : Vector Word 64) : schedulePart2 B W 0 = decodeBlock2 B W := by
  simp only [schedulePart2, List.range'_zero, List.foldl_nil]

theorem schedule2_eq_part (B : Block) : schedule2 B = schedulePart2 B (Vector.replicate 64 0) 48 := rfl

theorem schedulePart2_succ (B : Block) (W : Vector Word 64) (n : Nat) :
    schedulePart2 B W (n + 1) = extend2 (schedulePart2 B W n) (16 + n) := by
  simp [schedulePart2, List.range'_concat]

theorem schedulePart2_stable (B : Block) (W : Vector Word 64) (n m i : Nat) (hn : n ≤ m) (hi : i < 16 + n) :
    readReg (schedulePart2 B W m) i = readReg (schedulePart2 B W n) i := by
  induction m with
  | zero => simp [Nat.le_zero.mp hn]
  | succ m ih =>
    rcases Nat.eq_or_lt_of_le hn with rfl | hlt
    · rfl
    · rw [schedulePart2_succ, extend2_read_other _ _ _ (by omega)]; exact ih (by omega)

theorem schedule2_read_low (B : Block) (i : Nat) (h : i < 16) : readReg (schedule2 B) i = blockWord B i := by
  rw [schedule2_eq_part, schedulePart2_stable B _ 0 48 i (by omega) (by omega), schedulePart2_zero]
  exact decodeBlock2_read B _ i h

theorem schedule2_read_high (B : Block) (t : Nat) (h : 16 ≤ t) (h' : t < 64) :
    readReg (schedule2 B) t =
      add32 (add32 (add32 (readReg (schedule2 B) (t - 16)) (smallSigma0 (readReg (schedule2 B) (t - 15))))
        (readReg (schedule2 B) (t - 7))) (smallSigma1 (readReg (schedule2 B) (t - 2))) := by
  have st : ∀ i, i < t → readReg (schedule2 B) i = readReg (schedulePart2 B (Vector.replicate 64 0) (t - 16)) i := by
    intro i hi
    rw [schedule2_eq_part, schedulePart2_stable B _ (t - 16) 48 i (by omega) (by omega)]
  have e : readReg (schedule2 B) t = readReg (schedulePart2 B (Vector.replicate 64 0) (t - 16 + 1)) t := by
    rw [schedule2_eq_part, schedulePart2_stable B _ (t - 16 + 1) 48 t (by omega) (by omega)]
  rw [e, schedulePart2_succ, show 16 + (t - 16) = t by omega, extend2_read_same _ _ h',
    st _ (by omega), st _ (by omega), st _ (by omega), st _ (by omega)]

theorem rounds2_succ (W : Vector Word 64) (v : Work2) (n : Nat) : rounds2 W v (n + 1) = round2 W (rounds2 W v n) n := by
  simp [rounds2, List.range_succ]

theorem round2_congr {W W' : Vector Word 64} (v : Work2) (t : Nat) (h : readReg W t = readReg W' t) :
    round2 W v t = round2 W' v t := by
  simp [round2, h]

/-- Computing word `n` in an array that agrees with the schedule so far makes it agree one word further (R127, R157). -/
theorem extend2_keeps_schedule (B : Block) (n : Nat) (W : Vector Word 64) (hn : n < 64)
    (h : ∀ i, i < max 16 n → readReg W i = readReg (schedule2 B) i) (i : Nat) (hi : i < max 16 (n + 1)) :
    readReg (if 16 ≤ n then extend2 W n else W) i = readReg (schedule2 B) i := by
  by_cases hg : 16 ≤ n
  · rw [if_pos hg]
    by_cases hin : i = n
    · subst hin
      rw [extend2_read_same _ _ hn, schedule2_read_high B _ hg hn, h _ (by omega), h _ (by omega), h _ (by omega),
        h _ (by omega)]
    · rw [extend2_read_other _ _ _ hin]; exact h i (by omega)
  · rw [if_neg hg]; exact h i (by omega)

/-- Compressing by two lists of blocks, one after the other (R148). -/
theorem sha256Compress_append (H : Vector Word 8) (As Bs : List Block) :
    sha256Compress H (As ++ Bs) = sha256Compress (sha256Compress H As) Bs := by
  simp [sha256Compress]

end Sys2Proof.Machine
end

