-- ==== Sys2Proof/Tests/Slice0.lean ====
section
/-! SUPPORT. The model's own tests, and for every statement with hypotheses a state and operands that meet them.
Expected values come from spec/95_test_vectors.md and from the worked examples of the rules. -/

namespace Sys2Proof.Tests

open Sys2Proof.Machine

/-! ### Blocks and states the tests use -/

/-- The bytes of a list of words, big-endian. -/
def wordBytes (S : List Word) : List Byte :=
  S.flatMap be32

/-- V1, the padded empty message (spec/95_test_vectors.md section 3). -/
def v1Block : Block :=
  wordBytes (0x80000000 :: List.replicate 15 0)

/-- V2, the padded message "abc". -/
def v2Block : Block :=
  wordBytes (0x61626380 :: (List.replicate 14 0 ++ [0x18]))

/-- VZ, all zero. -/
def vzBlock : Block :=
  List.replicate 64 0

/-- The start state of the programs of spec/95_test_vectors.md section 8: `H1 = 11111111 x5`, `H2 = 22222222 x8`, idle. -/
def start : State where
  h1 := Vector.replicate 5 0x11111111
  h2 := Vector.replicate 8 0x22222222
  v1 := ⟨0, 0, 0, 0, 0⟩
  v2 := ⟨0, 0, 0, 0, 0, 0, 0, 0⟩
  w1 := Vector.replicate 80 0
  w2 := Vector.replicate 64 0
  busy := false
  alg := .sha1
  phase := .awaitingBlock
  j := 0
  blocks := []
  port := []
  responses := []
  resets := []
  grain := .command
  draws := 7

/-- `start` with frames at the port. -/
def offering (Fs : List Frame) : State :=
  { start with port := Fs }

/-- `start` in the middle of a `COMP`. -/
def running (c : Alg) (p : Phase) (j : Nat) (Bs : List Block) : State :=
  { start with busy := true, alg := c, phase := p, j := j, blocks := Bs }

/-- The fields of an outcome a test looks at: `H1`, `H2` and the responses. -/
def seen : Host.Outcome State Fault Refusal → Option (Vector Word 5 × Vector Word 8 × List Frame)
  | .next t => some (t.h1, t.h2, t.responses)
  | .fault _ => none
  | .refused _ => none

/-- `H1` after a step that takes the frame `F`. -/
def h1After (s : State) (F : Frame) : Option (List Word) :=
  match step { s with port := [F] } with
  | .next t => some t.h1.toList
  | .fault _ => none
  | .refused _ => none

/-- `H2` after a step that takes the frame `F`. -/
def h2After (s : State) (F : Frame) : Option (List Word) :=
  match step { s with port := [F] } with
  | .next t => some t.h2.toList
  | .fault _ => none
  | .refused _ => none

/-! ### WellFormed refuses ill-formed operands -/

theorem test_wellFormed_sha1Ldst_short : wellFormed (.sha1Ldst [1, 2, 3, 4]) = false := by decide
theorem test_wellFormed_sha1Ldst_long : wellFormed (.sha1Ldst [1, 2, 3, 4, 5, 6, 7, 8]) = false := by decide
theorem test_wellFormed_sha256Ldst_short : wellFormed (.sha256Ldst [1, 2, 3, 4, 5]) = false := by decide
theorem test_wellFormed_sha1Comp_short_block : wellFormed (.sha1Comp [vzBlock, List.replicate 63 0]) = false := by decide
theorem test_wellFormed_sha256Comp_long_block : wellFormed (.sha256Comp [List.replicate 65 0]) = false := by decide
theorem test_wellFormed_accepts :
    wellFormed (.sha1Ldst [1, 2, 3, 4, 5]) = true ∧ wellFormed (.sha256Comp [vzBlock, vzBlock]) = true ∧
      wellFormed (.sha1Comp []) = true ∧ wellFormed .sha256Rdst = true := by decide

/-! ### Decoding, from the frames of spec/30_encoding.md and section 7 of the vectors -/

theorem test_decode_sha1Init : decode [0b00010000] = .ok .sha1Init := by decide
theorem test_decode_sha1Ldst :
    decode [0b00010001, 0, 0, 0, 0, 0, 0, 0, 1, 0x80, 0, 0, 0, 0xff, 0xff, 0xff, 0xff, 0xde, 0xad, 0xbe, 0xef] =
      .ok (.sha1Ldst [0x00000000, 0x00000001, 0x80000000, 0xffffffff, 0xdeadbeef]) := by decide
theorem test_decode_sha1Comp : decode (0b00010010 :: (v2Block ++ vzBlock)) = .ok (.sha1Comp [v2Block, vzBlock]) := by
  decide +kernel
theorem test_decode_sha1Rdst : decode [0b00010011] = .ok .sha1Rdst := by decide
theorem test_decode_sha256Init : decode [0b00100000] = .ok .sha256Init := by decide
theorem test_decode_sha256Ldst :
    decode (0b00100001 :: [0, 0, 0, 0, 0x11, 0x11, 0x11, 0x11, 0x22, 0x22, 0x22, 0x22, 0x33, 0x33, 0x33, 0x33,
      0x44, 0x44, 0x44, 0x44, 0x55, 0x55, 0x55, 0x55, 0x66, 0x66, 0x66, 0x66, 0x77, 0x77, 0x77, 0x78]) =
      .ok (.sha256Ldst [0, 0x11111111, 0x22222222, 0x33333333, 0x44444444, 0x55555555, 0x66666666, 0x77777778]) := by decide
theorem test_decode_sha256Comp : decode (0b00100010 :: v1Block) = .ok (.sha256Comp [v1Block]) := by decide +kernel
theorem test_decode_sha256Rdst : decode [0b00100011] = .ok .sha256Rdst := by decide
/-- The opcode is looked at before the length (R178). -/
theorem test_decode_checks_opcode_first : decode (0x02 :: vzBlock) = .rejected .illegal ∧ decode [0x14, 0] = .rejected .illegal ∧
    decode [0x30] = .rejected .illegal ∧ decode [0xff, 1, 2, 3] = .rejected .illegal ∧ decode [0x00] = .rejected .illegal := by
  decide
theorem test_tableWord_past_the_map : decodeTableWord 8 0x14 = none ∧ decodeTableWord 8 0x00 = none := by decide

/-! ### Primitives at the values of section 4 of the vectors -/

theorem test_rotates : rotl 0x12345678 5 = 0x468ACF02 ∧ rotl 0x80000001 1 = 3 ∧ rotr 0x12345678 25 = 0x1A2B3C09 ∧
    rotr 0x00000001 1 = 0x80000000 ∧ shr 0x80000000 3 = 0x10000000 := by decide
theorem test_roundFunctions : ch 0xF0F0F0F0 0xAAAAAAAA 0x55555555 = 0xA5A5A5A5 ∧
    parity 0xEFCDAB89 0x98BADCFE 0x10325476 = 0x67452301 ∧ maj 0x6A09E667 0xBB67AE85 0x3C6EF372 = 0x3A6FE667 := by decide
theorem test_sigmas : bigSigma0 0x6A09E667 = 0xCE20B47E ∧ bigSigma1 0x510E527F = 0x3587272B ∧
    smallSigma0 0x12345678 = 0xE7FCE6EE ∧ smallSigma1 0x12345678 = 0xA1F78649 := by decide
theorem test_stage_borders :
    [0, 19, 20, 39, 40, 59, 60, 79].map stageConstant =
      [0x5A827999, 0x5A827999, 0x6ED9EBA1, 0x6ED9EBA1, 0x8F1BBCDC, 0x8F1BBCDC, 0xCA62C1D6, 0xCA62C1D6] ∧
    [0, 19, 20, 39, 40, 59, 60, 79].map (fun t => f1 t 0xF0F0F0F0 0xAAAAAAAA 0x55555555) =
      [0xA5A5A5A5, 0xA5A5A5A5, 0x0F0F0F0F, 0x0F0F0F0F, 0xF0F0F0F0, 0xF0F0F0F0, 0x0F0F0F0F, 0x0F0F0F0F] := by decide

/-! ### Schedules, rounds and known answers (sections 5 and 6 of the vectors) -/

theorem test_schedule1_abc : [0, 15, 16, 17, 18, 19, 40, 79].map (readReg (schedule1 v2Block)) =
    [0x61626380, 0x18, 0xc2c4c700, 0, 0x30, 0x85898e01, 0xd2e138c4, 0x822e0879] := by decide +kernel
theorem test_schedule2_abc : [0, 15, 16, 17, 18, 19, 40, 63].map (readReg (schedule2 v2Block)) =
    [0x61626380, 0x18, 0x61626380, 0x000f0000, 0x7da86405, 0x600003c6, 0x9f47bf94, 0x12b1edeb] := by decide +kernel
theorem test_round1_first : round1 (decodeBlock1 v2Block start.w1) (seed1 iv1) 0 =
    ⟨0x0116fc33, 0x67452301, 0x7bf36ae2, 0x98badcfe, 0x10325476⟩ := by decide +kernel
theorem test_round2_first : round2 (decodeBlock2 v2Block start.w2) (seed2 iv2) 0 =
    ⟨0x5d6aebcd, 0x6a09e667, 0xbb67ae85, 0x3c6ef372, 0xfa2a4622, 0x510e527f, 0x9b05688c, 0x1f83d9ab⟩ := by decide +kernel

/-- S5: SHA-1 of "abc", one step of the block. -/
theorem test_sha1Comp_abc : h1After { start with h1 := iv1 } (0x12 :: v2Block) =
    some [0xa9993e36, 0x4706816a, 0xba3e2571, 0x7850c26c, 0x9cd0d89d] := by decide +kernel
/-- S3: SHA-1 of the empty message. -/
theorem test_sha1Block_empty_message : (sha1Block iv1 v1Block).toList =
    [0xda39a3ee, 0x5e6b4b0d, 0x3255bfef, 0x95601890, 0xafd80709] := by decide +kernel
/-- V4: all five additions of the fold overflow (property S8). -/
theorem test_sha1Block_wraps : (sha1Block (Vector.replicate 5 0xffffffff) vzBlock).toList =
    [0xa07aadf8, 0xb96d982f, 0xed6a4c35, 0xc3369895, 0xe4499913] := by decide +kernel
/-- S6: SHA-256 of "abc", one step of the block. -/
theorem test_sha256Comp_abc : h2After { start with h2 := iv2 } (0x22 :: v2Block) =
    some [0xba7816bf, 0x8f01cfea, 0x414140de, 0x5dae2223, 0xb00361a3, 0x96177a9c, 0xb410ff61, 0xf20015ad] := by decide +kernel
/-- S4: SHA-256 of the empty message. -/
theorem test_sha256Block_empty_message : (sha256Block iv2 v1Block).toList =
    [0xe3b0c442, 0x98fc1c14, 0x9afbf4c8, 0x996fb924, 0x27ae41e4, 0x649b934c, 0xa495991b, 0x7852b855] := by decide +kernel
/-- V4: all eight additions of the fold overflow (property S8). -/
theorem test_sha256Block_wraps : (sha256Block (Vector.replicate 8 0xffffffff) vzBlock).toList =
    [0x25260809, 0x56c94ba8, 0xe7d6dd48, 0x222df1d3, 0xf914c4b0, 0xb823beb6, 0xe8cebb7a, 0xddcdff59] := by decide +kernel

/-! ### The other commands, one step each -/

theorem test_sha1Init : seen (step (offering [[0x10]])) = some (iv1, start.h2, [[0x00]]) := by decide
theorem test_sha1Ldst : seen (step (offering [0x11 :: wordBytes [0, 1, 0x80000000, 0xffffffff, 0xdeadbeef]])) =
    some (#v[0, 1, 0x80000000, 0xffffffff, 0xdeadbeef], start.h2, [[0x00]]) := by decide +kernel
theorem test_sha1Rdst : seen (step { start with h1 := #v[0, 1, 0x80000000, 0xffffffff, 0xdeadbeef], port := [[0x13]] }) =
    some (#v[0, 1, 0x80000000, 0xffffffff, 0xdeadbeef], start.h2,
      [[0x00, 0, 0, 0, 0, 0, 0, 0, 1, 0x80, 0, 0, 0, 0xff, 0xff, 0xff, 0xff, 0xde, 0xad, 0xbe, 0xef]]) := by decide +kernel
theorem test_sha256Init : seen (step (offering [[0x20]])) = some (start.h1, iv2, [[0x00]]) := by decide
theorem test_sha256Ldst :
    seen (step (offering [0x21 :: wordBytes [0, 0x11111111, 2, 3, 4, 5, 6, 0x77777777]])) =
      some (start.h1, #v[0, 0x11111111, 2, 3, 4, 5, 6, 0x77777777], [[0x00]]) := by decide +kernel
theorem test_sha256Rdst : seen (step { start with h2 := #v[1, 2, 3, 4, 5, 6, 7, 0xdeadbeef], port := [[0x23]] }) =
    some (start.h1, #v[1, 2, 3, 4, 5, 6, 7, 0xdeadbeef],
      [[0x00, 0, 0, 0, 1, 0, 0, 0, 2, 0, 0, 0, 3, 0, 0, 0, 4, 0, 0, 0, 5, 0, 0, 0, 6, 0, 0, 0, 7, 0xde, 0xad, 0xbe, 0xef]]) := by
  decide +kernel
/-- Section 7 of the vectors: `InvalidBlockLength` and nothing changed, 65 bytes among them. -/
theorem test_bad_block_lengths : ∀ F ∈ [0x12 :: List.replicate 1 0, 0x12 :: List.replicate 63 0, 0x12 :: List.replicate 65 0,
    0x12 :: List.replicate 127 0, 0x22 :: List.replicate 63 0, 0x22 :: List.replicate 65 0],
    seen (step (offering [F])) = some (start.h1, start.h2, [[0x01]]) := by decide +kernel
/-- Section 7: `InvalidOpcode`. -/
theorem test_illegal_frames : ∀ F ∈ ([[], [0x00], 0x02 :: vzBlock, [0x14], [0x1f], [0x30], [0xff, 1, 2, 3]] : List Frame),
    seen (step (offering [F])) = some (start.h1, start.h2, [[0x02]]) := by decide +kernel
/-- Section 7: `InvalidOperandLength`, with no data even for `RDST`. -/
theorem test_bad_operand_lengths : ∀ F ∈ ([[0x10, 0], [0x13, 0], [0x20, 0], [0x23, 0], 0x11 :: List.replicate 19 0,
    0x11 :: List.replicate 21 0, 0x11 :: List.replicate 32 0, 0x21 :: List.replicate 20 0, [0x21]] : List Frame),
    seen (step (offering [F])) = some (start.h1, start.h2, [[0x03]]) := by decide +kernel

/-! ### The textual form (R76, R78) -/

theorem test_text_commands : lineFrames "SHA1.INIT ; start".toList = some [[0x10]] ∧
    lineFrames "sha1.ldst 00000000 00000001 80000000 ffffffff DEADBEEF".toList =
      some [0x11 :: wordBytes [0, 1, 0x80000000, 0xffffffff, 0xdeadbeef]] ∧
    lineFrames "SHA256.COMP".toList = some [[0x22]] ∧ lineFrames ".frame 10 00".toList = some [[0x10, 0x00]] ∧
    lineFrames ".frame".toList = some [[]] ∧ lineFrames "; only a comment".toList = some [] := by decide +kernel
theorem test_text_call : lineFrames "SHA1.CALL f4286818 c37b27ae 0408f581 84677148 4a566572,".toList =
    some [0x11 :: wordBytes [0xf4286818, 0xc37b27ae, 0x0408f581, 0x84677148, 0x4a566572], [0x12], [0x13]] := by decide +kernel
theorem test_text_rejects : lineFrames "SHA1.LDST 1 2 3 4 5".toList = none ∧ lineFrames "SHA1.COMP 0".toList = none ∧
    lineFrames "SHA3.INIT".toList = none := by decide +kernel
theorem test_text_responses : responseText [0x00] = some "-> OK".toList ∧ responseText [0x03] = some "-> InvalidOperandLength".toList ∧
    responseText [0x00, 0xa9, 0x3e] = some "-> OK a93e".toList ∧ responseText [0x04] = none := by decide +kernel

/-! ### States and operands that meet the hypotheses of the statements, one theorem for each statement that has any.
Where a statement has several clauses, one conjunct for each, at the ends of the clause's range. -/

/-- `start`, stepping by phases. -/
def phased (Fs : List Frame) : State :=
  { start with grain := .phase, port := Fs }

/-- Core SHA1 before round `t` of block V2 (or after round 79, for `.blockComplete`): the transients are the block's. -/
def running1 (p : Phase) (t : Nat) : State :=
  { running .sha1 p 0 [v2Block] with w1 := schedule1 v2Block, v1 := rounds1 (schedule1 v2Block) (seed1 start.h1) t }

/-- Core SHA256 before round `t` of block V2. -/
def running2 (p : Phase) (t : Nat) : State :=
  { running .sha256 p 0 [v2Block] with w2 := schedule2 v2Block, v2 := rounds2 (schedule2 v2Block) (seed2 start.h2) t }

theorem witness_DecodeEncodeRoundTrip : wellFormed (.sha1Comp [v2Block, vzBlock]) = true ∧
    wellFormed (.sha256Ldst [1, 2, 3, 4, 5, 6, 7, 8]) = true ∧ decode [0x10] = .ok .sha1Init := by decide +kernel

/-- A reserved opcode, and a rejection of each kind with the frame it comes from. -/
theorem witness_DecodeFollowsTheOpcodeMapAndLengths :
    (0x14 : Byte) ∉ ([0x10, 0x11, 0x12, 0x13, 0x20, 0x21, 0x22, 0x23] : List Byte) ∧ decode [0x14] = .rejected .illegal ∧
    decode [0x10, 0] = .rejected (.badLength .sha1 .init) ∧ decode [0x22, 0] = .rejected (.badBlockLength .sha256) := by decide

theorem witness_BlockWordsAreBigEndianReads : 64 * (1 + 1) ≤ (v2Block ++ vzBlock).length ∧ 15 < 16 ∧
    64 * (0 + 1) ≤ (v2Block ++ vzBlock).length ∧ 0 < 16 := by decide +kernel

theorem witness_BigEndianWordsRoundTrip : (7 : Nat) < 8 ∧ (0 : Nat) < 8 := by decide

theorem witness_ReadReturnsTheLoadedBytes : (List.replicate 20 (0xa5 : Byte)).length = 20 ∧
    (List.replicate 32 (0x5a : Byte)).length = 32 := by decide

theorem witness_MemReadIsBigEndian : 63 + 1 ≤ vzBlock.length ∧ 60 + 4 ≤ vzBlock.length := by decide

theorem witness_MemWriteIsBigEndian :
    (((1 : Nat) = 1 ∨ (1 : Nat) = 4) ∧ 255 < 2 ^ (8 * 1) ∧ 4 ≤ (List.replicate 4 (0 : Byte)).length ∧ 0 < 1) ∧
    (((4 : Nat) = 1 ∨ (4 : Nat) = 4) ∧ 4294967295 < 2 ^ (8 * 4) ∧ 2 ≤ (List.replicate 4 (0 : Byte)).length ∧ 3 < 4) ∧
    (1 < 2 ∨ 2 + 4 ≤ 1) ∧ (6 < 2 ∨ 2 + 4 ≤ 6) := by decide

theorem witness_AdditionWraps : List.Perm [(0xffffffff : Word), 1, 2] [2, 0xffffffff, 1] := by decide

theorem witness_RotatesMoveEveryBit : 0 < 1 ∧ 1 < 32 ∧ 0 < 31 ∧ 31 < 32 ∧ 0 < 32 := by decide

theorem witness_ShiftIsFloorDivision : (0 < 1 ∧ 1 < 32 ∧ 31 < 32 ∧ 32 ≤ 31 + 1) ∧ (0 < 31 ∧ 31 < 32 ∧ 1 < 32 ∧ 32 ≤ 1 + 31) := by
  decide

theorem witness_RoundFunctionsBitByBit : 0 < 32 ∧ 31 < 32 := by decide

theorem witness_SigmaFunctionsBitByBit : 0 < 32 ∧ 31 < 32 := by decide

theorem witness_StageSelectsFunctionAndConstant : 0 < 20 ∧ 19 < 20 ∧ (20 ≤ 20 ∧ 20 < 40) ∧ (20 ≤ 39 ∧ 39 < 40) ∧
    (40 ≤ 40 ∧ 40 < 60) ∧ (40 ≤ 59 ∧ 59 < 60) ∧ (60 ≤ 60 ∧ 60 < 80) ∧ 60 ≤ 79 ∧ 79 < 80 := by decide

theorem witness_LawsOfThePrimitives : 0 < 1 ∧ 1 < 32 ∧ 0 < 31 ∧ 31 < 32 := by decide

/-- For every state and block there are a schedule and working variables that obey the recurrences of SHA-1. -/
theorem witness_Sha1BlockObeysTheRecurrences (H : Vector Word 5) (B : Block) : ∃ (W : Nat → Word) (v : Nat → Work1),
    (∀ i, i < 16 → W i = fromBE32 (byteAt B (4 * i)) (byteAt B (4 * i + 1)) (byteAt B (4 * i + 2)) (byteAt B (4 * i + 3))) ∧
    (∀ t, 16 ≤ t → t < 80 → W t = rotl (W (t - 3) ^^^ W (t - 8) ^^^ W (t - 14) ^^^ W (t - 16)) 1) ∧
    v 0 = ⟨H[0], H[1], H[2], H[3], H[4]⟩ ∧
    ∀ t, t < 80 → v (t + 1) =
      ⟨(v t).e + rotl (v t).a 5 + f1 t (v t).b (v t).c (v t).d + W t + stageConstant t,
        (v t).a, rotl (v t).b 30, (v t).c, (v t).d⟩ :=
  ⟨readReg (schedule1 B), rounds1 (schedule1 B) (seed1 H), fun i hi => schedule1_read_low B i hi,
    fun t h h' => schedule1_read_high B t h h', rfl, fun t _ => rounds1_succ _ _ t⟩

/-- For every state and block there are a schedule and working variables that obey the recurrences of SHA-256. -/
theorem witness_Sha256BlockObeysTheRecurrences (H : Vector Word 8) (B : Block) : ∃ (W : Nat → Word) (v : Nat → Work2),
    (∀ i, i < 16 → W i = fromBE32 (byteAt B (4 * i)) (byteAt B (4 * i + 1)) (byteAt B (4 * i + 2)) (byteAt B (4 * i + 3))) ∧
    (∀ t, 16 ≤ t → t < 64 → W t = W (t - 16) + smallSigma0 (W (t - 15)) + W (t - 7) + smallSigma1 (W (t - 2))) ∧
    v 0 = ⟨H[0], H[1], H[2], H[3], H[4], H[5], H[6], H[7]⟩ ∧
    ∀ t, t < 64 → ∀ temp1 temp2 : Word,
      temp1 = (v t).h + bigSigma1 (v t).e + ch (v t).e (v t).f (v t).g + readReg k2 t + W t →
      temp2 = bigSigma0 (v t).a + maj (v t).a (v t).b (v t).c →
      v (t + 1) = ⟨temp1 + temp2, (v t).a, (v t).b, (v t).c, (v t).d + temp1, (v t).e, (v t).f, (v t).g⟩ :=
  ⟨readReg (schedule2 B), rounds2 (schedule2 B) (seed2 H), fun i hi => schedule2_read_low B i hi,
    fun t h h' => schedule2_read_high B t h h', rfl, fun t _ temp1 temp2 h1 h2 => by
      rw [rounds2_succ, h1, h2]; rfl⟩

theorem witness_ScheduleOnTheFlyIsTheSchedule : (16 ≤ 16 ∧ 16 < 80 ∧ 16 ≤ 79 ∧ 79 < 80 ∧ 16 ≤ 63 ∧ 63 < 64) ∧
    start.w1 ≠ writeReg start.w1 79 1 ∧
    (∀ i ∈ [0, 2, 8, 13], readReg start.w1 i = readReg (writeReg start.w1 79 1) i) ∧
    start.w2 ≠ writeReg start.w2 63 1 ∧
    ∀ i, 0 ≤ i → i < 16 → readReg start.w2 i = readReg (writeReg start.w2 63 1) i := by decide +kernel

theorem witness_Sha1InitLoadsTheInitialState : ([0] : List Byte) ≠ [] := by decide

theorem witness_Sha1LoadWritesTheWholeFile : ([1, 2, 3, 4, 5] : List Word).length = 5 ∧
    (List.replicate 20 (1 : Byte)).length = 20 ∧ (List.replicate 19 (1 : Byte)).length ≠ 20 ∧
    (List.replicate 21 (1 : Byte)).length ≠ 20 := by decide

theorem witness_Sha1CompressAbsorbsTheBlocks : wholeBlocks [v2Block, vzBlock] = true ∧ wholeBlocks [] = true ∧
    start.grain = .command ∧ (List.replicate 63 (0 : Byte)).length % 64 ≠ 0 ∧ (List.replicate 65 (0 : Byte)).length % 64 ≠ 0 := by
  decide +kernel

theorem witness_Sha1ReadReturnsTheWholeFile : ([0, 0] : List Byte) ≠ [] := by decide

theorem witness_Sha256InitLoadsTheInitialState : ([1] : List Byte) ≠ [] := by decide

theorem witness_Sha256LoadWritesTheWholeFile : ([1, 2, 3, 4, 5, 6, 7, 8] : List Word).length = 8 ∧
    (List.replicate 32 (1 : Byte)).length = 32 ∧ (List.replicate 31 (1 : Byte)).length ≠ 32 ∧
    (List.replicate 20 (1 : Byte)).length ≠ 32 := by decide

theorem witness_Sha256CompressAbsorbsTheBlocks : wholeBlocks [v1Block, v2Block] = true ∧ wholeBlocks [] = true ∧
    start.grain = .command ∧ (List.replicate 1 (0 : Byte)).length % 64 ≠ 0 ∧ (List.replicate 127 (0 : Byte)).length % 64 ≠ 0 := by
  decide +kernel

theorem witness_Sha256ReadReturnsTheWholeFile : ([7] : List Byte) ≠ [] := by decide

theorem witness_SplitPayloadsChain : start.grain = .command ∧ v2Block.length % 64 = 0 ∧ (vzBlock ++ v1Block).length % 64 = 0 ∧
    { start with v1 := ⟨1, 2, 3, 4, 5⟩, draws := 99, port := [[0x20]] }.h1 = start.h1 := by decide +kernel

theorem witness_EmptyCompressIsTheIdentity : start.grain = .command := by decide

theorem witness_CommandsStayInTheirCore : (Instr.sha1Comp [v2Block]).alg = .sha1 ∧ Instr.sha256Rdst.alg = .sha256 ∧
    { start with h2 := iv2 }.h1 = start.h1 ∧ { start with h1 := iv1 }.h2 = start.h2 := by decide

theorem witness_CommandsOfDifferentCoresCommute : (Instr.sha1Comp [v2Block]).alg = .sha1 ∧
    (Instr.sha256Ldst [1, 2, 3, 4, 5, 6, 7, 8]).alg = .sha256 := by decide

theorem witness_ReadsAreHarmlessAndLoadsIdempotent : Instr.sha1Rdst.op ≠ .comp ∧ Instr.sha1Rdst.op = .rdst ∧
    Instr.sha256Init.op ≠ .comp ∧ (Instr.sha1Ldst [1, 2, 3, 4, 5]).op ≠ .comp := by decide

theorem witness_BadBlockLengthChangesNothing : ((0x12 : Byte) = 0x12 ∨ (0x12 : Byte) = 0x22) ∧
    ((0x22 : Byte) = 0x12 ∨ (0x22 : Byte) = 0x22) ∧ (List.replicate 63 (0 : Byte)).length % 64 ≠ 0 ∧
    (List.replicate 65 (0 : Byte)).length % 64 ≠ 0 ∧
    decode (0x12 :: List.replicate 63 0) = .rejected (.badBlockLength .sha1) ∧
    errorOf (.badBlockLength .sha1) = .invalidBlockLength := by decide +kernel

theorem witness_ReservedOpcodeChangesNothing : ∀ b ∈ ([0x00, 0x0f, 0x14, 0x1f, 0x24, 0x30, 0xff] : List Byte),
    b ∉ ([0x10, 0x11, 0x12, 0x13, 0x20, 0x21, 0x22, 0x23] : List Byte) ∧ decode (b :: vzBlock) = .rejected .illegal := by
  decide +kernel

theorem witness_BadOperandLengthChangesNothing :
    ((0x10 : Byte) ∈ ([0x10, 0x13, 0x20, 0x23] : List Byte) ∧ ([0] : List Byte).length ≠ 0) ∧
    ((0x23 : Byte) ∈ ([0x10, 0x13, 0x20, 0x23] : List Byte) ∧ ([0] : List Byte).length ≠ 0) ∧
    (List.replicate 19 (0 : Byte)).length ≠ 20 ∧ (List.replicate 20 (0 : Byte)).length ≠ 32 ∧
    decode (0x21 :: List.replicate 20 0) = .rejected (.badLength .sha256 .ldst) ∧
    errorOf (.badLength .sha256 .ldst) = .invalidOperandLength := by decide +kernel

theorem witness_IllFormedCommandsChangeNothing : wellFormed (.sha1Ldst []) = false ∧ wellFormed (.sha256Ldst [1]) = false ∧
    wellFormed (.sha1Comp [[1]]) = false ∧ wellFormed (.sha256Comp [vzBlock, []]) = false := by decide +kernel

/-- One state for each clause: nothing offered, a frame that decodes (run whole, and at the granularity of phases), a `COMP` at
the granularity of phases, a rejected frame; a RESET one step off is allowed. -/
theorem witness_StepRunsTheDecodedCommand :
    (start.busy = false ∧ start.resets.head? ≠ some 0 ∧ start.port = []) ∧
    (let s := { offering [0x12 :: v2Block, [0x13]] with resets := [1] };
      s.busy = false ∧ s.resets.head? ≠ some 0 ∧ s.port = (0x12 :: v2Block) :: [[0x13]] ∧
      decode (0x12 :: v2Block) = .ok (.sha1Comp [v2Block]) ∧ s.grain = .command) ∧
    ((phased [[0x13]]).busy = false ∧ decode [0x13] = .ok .sha1Rdst ∧ compOf .sha1Rdst = none) ∧
    ((phased [0x22 :: v2Block]).busy = false ∧ decode (0x22 :: v2Block) = .ok (.sha256Comp [v2Block]) ∧
      (phased [0x22 :: v2Block]).grain = .phase ∧ compOf (.sha256Comp [v2Block]) = some (.sha256, [v2Block])) ∧
    ((offering [[0x14]]).busy = false ∧ decode [0x14] = .rejected .illegal) := by decide +kernel

/-- A busy block that stays busy, and one that ends its command, each with frames held. -/
theorem witness_FramesAreHeldWhileBusy :
    (∃ t, step { running .sha1 .awaitingBlock 0 [v2Block] with port := [[0x13]] } = .next t ∧ t.busy = true) ∧
    ∃ t, step { running .sha256 .awaitingBlock 1 [v2Block] with port := [[0x13]] } = .next t ∧ t.busy = false :=
  ⟨⟨_, rfl, rfl⟩, ⟨_, rfl, rfl⟩⟩

theorem witness_EveryFrameGetsOneResponse : (offering [[0x14]]).resets.head? ≠ some 0 ∧ ∃ t, step (offering [[0x14]]) = .next t :=
  ⟨by decide, ⟨_, rfl⟩⟩

/-- A RESET that strikes in the middle of a command. -/
theorem witness_ResetAbandonsTheCommand :
    { running .sha1 (.processingRound 40) 0 [v2Block] with resets := [0] }.resets.head? = some 0 := by decide

theorem legal_running1 (p : Phase) (n : Nat) (h : ∀ t, p = .processingRound t → t < 80) : SequencerLegal (running1 p n) := by
  show wholeBlocks [v2Block] = true ∧ 0 ≤ 1 ∧ (p ≠ .awaitingBlock → 0 < 1) ∧ ∀ t, p = .processingRound t → t < 80
  exact ⟨by decide, by decide, fun _ => by decide, h⟩

theorem legal_running2 (p : Phase) (n : Nat) (h : ∀ t, p = .processingRound t → t < 64) : SequencerLegal (running2 p n) := by
  show wholeBlocks [v2Block] = true ∧ 0 ≤ 1 ∧ (p ≠ .awaitingBlock → 0 < 1) ∧ ∀ t, p = .processingRound t → t < 64
  exact ⟨by decide, by decide, fun _ => by decide, h⟩

/-- Legal states in every phase, at the first and the last round of each core, with a next state. -/
theorem witness_StepsKeepTheSequencerLegal :
    (∀ t, t < 80 → SequencerLegal (running1 (.processingRound t) t)) ∧ SequencerLegal (running1 .awaitingBlock 0) ∧
    SequencerLegal (running1 .blockComplete 80) ∧ (∀ t, t < 64 → SequencerLegal (running2 (.processingRound t) t)) ∧
    SequencerLegal start ∧ (∃ t, step (running1 (.processingRound 79) 79) = .next t) ∧
    ∃ t, step (running2 .blockComplete 64) = .next t :=
  ⟨fun t ht => legal_running1 _ _ fun u hu => (by cases hu; exact ht), legal_running1 _ _ fun u hu => (by cases hu),
    legal_running1 _ _ fun u hu => (by cases hu), fun t ht => legal_running2 _ _ fun u hu => (by cases hu; exact ht),
    ⟨rfl, rfl⟩, ⟨_, rfl⟩, ⟨_, rfl⟩⟩

theorem witness_LegalStatesAlwaysStep : SequencerLegal (running1 (.processingRound 79) 79) :=
  legal_running1 _ _ fun u hu => (by cases hu; decide)

/-- Busy states of both cores, before a round and after the last, whose transients are those of the block. -/
theorem witness_StepsKeepTheDatapathCorrect :
    (SequencerLegal (running1 (.processingRound 20) 20) ∧ DatapathCorrect (running1 (.processingRound 20) 20) ∧
      (running1 (.processingRound 20) 20).busy = true ∧ ∃ t, step (running1 (.processingRound 20) 20) = .next t) ∧
    (SequencerLegal (running2 .blockComplete 64) ∧ DatapathCorrect (running2 .blockComplete 64) ∧
      (running2 .blockComplete 64).busy = true ∧ ∃ t, step (running2 .blockComplete 64) = .next t) :=
  ⟨⟨legal_running1 _ _ fun u hu => (by cases hu; decide),
      fun _ => ⟨fun t _ ht => by cases ht; exact ⟨rfl, fun _ _ => rfl⟩, fun _ h => by (cases h), fun t h => by (cases h), fun h => by (cases h)⟩,
      rfl, _, rfl⟩,
    ⟨legal_running2 _ _ fun u hu => (by cases hu),
      fun _ => ⟨fun t h => by (cases h), fun h => by (cases h), fun t _ h => by (cases h), fun _ _ => ⟨rfl, fun _ _ => rfl⟩⟩,
      rfl, _, rfl⟩⟩

theorem witness_StateFilesMoveOnlyAtTheFold :
    ((running1 (.processingRound 3) 3).busy = true ∧ (running1 (.processingRound 3) 3).phase ≠ .blockComplete ∧
      ∃ t, step (running1 (.processingRound 3) 3) = .next t) ∧
    ((running1 .blockComplete 80).alg = .sha1 ∧ (running1 .blockComplete 80).resets.head? ≠ some 0 ∧
      ∃ t, step (running1 .blockComplete 80) = .next t) ∧
    ((running2 .blockComplete 64).alg = .sha256 ∧ ∃ t, step (running2 .blockComplete 64) = .next t) :=
  ⟨⟨rfl, by decide, _, rfl⟩, ⟨rfl, by decide, _, rfl⟩, ⟨rfl, _, rfl⟩⟩

theorem witness_CommandsEndInTheirStepCount : SequencerLegal (running1 .awaitingBlock 0) ∧
    (running1 .awaitingBlock 0).busy = true ∧ (running1 .awaitingBlock 0).resets.head? ≠ some 0 ∧
    ∃ t, step (running1 .awaitingBlock 0) = .next t :=
  ⟨legal_running1 _ _ fun u hu => (by cases hu), rfl, by decide, _, rfl⟩

/-- A state for each row of the machine of core SHA1, ROUND at 0, 15, 16 and 79. -/
theorem witness_Sha1StepMachineRows :
    (let s := phased [0x12 :: v2Block, [0x13]];
      s.resets = [] ∧ s.busy = false ∧ s.grain = .phase ∧ s.port = (0x12 :: v2Block) :: [[0x13]] ∧ v2Block.length % 64 = 0) ∧
    (let s := running .sha1 .awaitingBlock 0 [v2Block];
      s.busy = true ∧ s.alg = .sha1 ∧ s.phase = .awaitingBlock ∧ s.j < s.blocks.length) ∧
    (∀ t ∈ [0, 15, 16, 79], (running .sha1 (.processingRound t) 0 [v2Block]).phase = .processingRound t ∧ t < 80) ∧
    (let s := running .sha1 .blockComplete 0 [v2Block];
      s.busy = true ∧ s.phase = .blockComplete ∧ s.j < s.blocks.length) ∧
    (let s := running .sha1 .awaitingBlock 1 [v2Block];
      s.busy = true ∧ s.phase = .awaitingBlock ∧ s.j = s.blocks.length) := by decide

/-- A state for each row of the machine of core SHA256, ROUND at 0, 15, 16 and 63. -/
theorem witness_Sha256StepMachineRows :
    (let s := phased [0x22 :: v2Block, [0x13]];
      s.resets = [] ∧ s.busy = false ∧ s.grain = .phase ∧ s.port = (0x22 :: v2Block) :: [[0x13]] ∧ v2Block.length % 64 = 0) ∧
    (let s := running .sha256 .awaitingBlock 0 [v2Block];
      s.busy = true ∧ s.alg = .sha256 ∧ s.phase = .awaitingBlock ∧ s.j < s.blocks.length) ∧
    (∀ t ∈ [0, 15, 16, 63], (running .sha256 (.processingRound t) 0 [v2Block]).phase = .processingRound t ∧ t < 64) ∧
    (let s := running .sha256 .blockComplete 0 [v2Block];
      s.busy = true ∧ s.phase = .blockComplete ∧ s.j < s.blocks.length) ∧
    (let s := running .sha256 .awaitingBlock 1 [v2Block];
      s.busy = true ∧ s.phase = .awaitingBlock ∧ s.j = s.blocks.length) := by decide

theorem witness_Sha1StepMachineIsTheCommand : Ready (phased [encode (.sha1Comp [v2Block, vzBlock]), [0x13]]) ∧
    (phased [encode (.sha1Comp [v2Block, vzBlock]), [0x13]]).grain = .phase ∧ wholeBlocks [v2Block, vzBlock] = true ∧
    (phased [encode (.sha1Comp [v2Block, vzBlock]), [0x13]]).port = encode (.sha1Comp [v2Block, vzBlock]) :: [[0x13]] :=
  ⟨⟨rfl, rfl, rfl, rfl⟩, rfl, by decide, rfl⟩

theorem witness_Sha256StepMachineIsTheCommand : Ready (phased [encode (.sha256Comp [v2Block]), [0x23]]) ∧
    (phased [encode (.sha256Comp [v2Block]), [0x23]]).grain = .phase ∧ wholeBlocks [v2Block] = true ∧
    (phased [encode (.sha256Comp [v2Block]), [0x23]]).port = encode (.sha256Comp [v2Block]) :: [[0x23]] :=
  ⟨⟨rfl, rfl, rfl, rfl⟩, rfl, by decide, rfl⟩

/-- A busy state of each core before the last of two blocks, and whole blocks of a command with none before the last. -/
theorem witness_EachBlockLeavesTheBlockFunction :
    (∀ c ∈ [Alg.sha1, Alg.sha256],
      let s := running c .awaitingBlock 1 [vzBlock, v2Block]
      s.busy = true ∧ s.resets = [] ∧ s.phase = .awaitingBlock ∧ s.blocks[s.j]? = some v2Block ∧ s.alg = c) ∧
    wholeBlocks ([] ++ [v2Block]) = true := by decide

/-- Two states that differ in `H1`, `H2`, `a` to `e` and the bytes of an offered block, and agree on shapes. -/
theorem witness_CourseDependsOnShapesAlone :
    ControlAgree (offering [0x12 :: v2Block])
      { offering [0x12 :: vzBlock] with h1 := iv1, h2 := iv2, v1 := ⟨1, 2, 3, 4, 5⟩ } ∧
    ∃ t, step (offering [0x12 :: v2Block]) = .next t :=
  ⟨⟨rfl, rfl, rfl, rfl, rfl, rfl, rfl, rfl, .cons ⟨by decide, rfl⟩ .nil, .nil⟩, _, rfl⟩

/-- Two idle states that differ in all that is left over, and two busy ones that differ in the other core's transients. -/
theorem witness_LeftoversNeverReachTheHost :
    (SameToHost (offering [[0x13]])
      { offering [[0x13]] with v1 := ⟨1, 2, 3, 4, 5⟩, w1 := Vector.replicate 80 9, alg := .sha256, j := 5, draws := 0 } ∧
      (offering [[0x13]]).resets.head? ≠ some 0 ∧ ∃ t, step (offering [[0x13]]) = .next t) ∧
    SameToHost (running1 (.processingRound 3) 3) { running1 (.processingRound 3) 3 with v2 := ⟨1, 2, 3, 4, 5, 6, 7, 8⟩ } ∧
    ∃ t, step (running1 (.processingRound 3) 3) = .next t :=
  ⟨⟨⟨rfl, rfl, rfl, rfl, rfl, rfl, rfl, rfl, rfl, fun h => by (cases h)⟩, by decide, _, rfl⟩,
    ⟨rfl, rfl, rfl, rfl, rfl, rfl, rfl, rfl, rfl, fun _ => ⟨rfl, rfl, fun _ => ⟨fun _ => rfl, fun h => by (cases h)⟩,
      fun _ _ => ⟨fun _ _ _ => rfl, fun h => by (cases h)⟩⟩⟩, _, rfl⟩

theorem witness_PseudoCommandsAreTheSourcesCall :
    (let s := offering (callFrames .sha1 [1, 2, 3, 4, 5] v2Block ++ [[0x23]]);
      Ready s ∧ s.grain = .command ∧ s.port = callFrames .sha1 [1, 2, 3, 4, 5] v2Block ++ [[0x23]] ∧ v2Block.length % 64 = 0) ∧
    (let s := offering (callFrames .sha256 [1, 2, 3, 4, 5, 6, 7, 8] [0] ++ []);
      Ready s ∧ s.grain = .command ∧ s.port = callFrames .sha256 [1, 2, 3, 4, 5, 6, 7, 8] [0] ++ [] ∧
        ([0] : List Byte).length % 64 ≠ 0) ∧
    (let s := offering (hashFrames .sha256 v2Block ++ [[0x13]]);
      Ready s ∧ s.grain = .command ∧ s.port = hashFrames .sha256 v2Block ++ [[0x13]] ∧ v2Block.length % 64 = 0) ∧
    (let s := offering (hashFrames .sha1 [0] ++ []);
      Ready s ∧ s.grain = .command ∧ s.port = hashFrames .sha1 [0] ++ [] ∧ ([0] : List Byte).length % 64 ≠ 0) :=
  ⟨⟨⟨rfl, rfl, rfl, rfl⟩, rfl, rfl, by decide⟩, ⟨⟨rfl, rfl, rfl, rfl⟩, rfl, rfl, by decide⟩,
    ⟨⟨rfl, rfl, rfl, rfl⟩, rfl, rfl, by decide⟩, ⟨⟨rfl, rfl, rfl, rfl⟩, rfl, rfl, by decide⟩⟩

theorem witness_DivisionOfAMessageDoesNotMatter :
    (let s := offering ([0x10] :: ([v2Block, [], vzBlock ++ v1Block].map (0x12 :: ·) ++ [0x13] :: [[0x14]]));
      Ready s ∧ s.grain = .command ∧ s.port = [0x10] :: ([v2Block, [], vzBlock ++ v1Block].map (0x12 :: ·) ++ [0x13] :: [[0x14]]) ∧
        ∀ P ∈ [v2Block, [], vzBlock ++ v1Block], P.length % 64 = 0) ∧
    (let s := offering ([0x20] :: (([] : List (List Byte)).map (0x22 :: ·) ++ [0x23] :: []));
      Ready s ∧ s.grain = .command ∧ s.port = [0x20] :: (([] : List (List Byte)).map (0x22 :: ·) ++ [0x23] :: []) ∧
        ∀ P ∈ ([] : List (List Byte)), P.length % 64 = 0) :=
  ⟨⟨⟨rfl, rfl, rfl, rfl⟩, rfl, rfl, by decide +kernel⟩, ⟨⟨rfl, rfl, rfl, rfl⟩, rfl, rfl, by decide⟩⟩

end Sys2Proof.Tests
end

section
/-! ### The sequencer stays inside the ranges of R31 (spec/10_state.md section 5) -/

namespace Sys2Proof.Machine

theorem sequencerLegal_busy_iff {s : State} (h : s.busy = true) :
    SequencerLegal s ↔ wholeBlocks s.blocks = true ∧ s.j ≤ s.blocks.length ∧
      (s.phase ≠ .awaitingBlock → s.j < s.blocks.length) ∧ ∀ t, s.phase = .processingRound t → t < s.alg.nr := by
  simp [SequencerLegal, h]

theorem sequencerLegal_idle_iff {s : State} (h : s.busy = false) :
    SequencerLegal s ↔ s.phase = .awaitingBlock ∧ s.blocks = [] := by
  simp [SequencerLegal, h]

/-- What makes a busy state legal, to be met by the state after a step. -/
theorem sequencerLegal_of_busy {s : State} (h : s.busy = true) (whole : wholeBlocks s.blocks = true)
    (index : s.j ≤ s.blocks.length) (more : s.phase ≠ .awaitingBlock → s.j < s.blocks.length)
    (bound : ∀ t, s.phase = .processingRound t → t < s.alg.nr) : SequencerLegal s :=
  (sequencerLegal_busy_iff h).mpr ⟨whole, index, more, bound⟩

theorem sequencerLegal_of_idle {s : State} (h : s.busy = false) (phase : s.phase = .awaitingBlock)
    (blocks : s.blocks = []) : SequencerLegal s :=
  (sequencerLegal_idle_iff h).mpr ⟨phase, blocks⟩

/-- Each row of R119 and R149 keeps the ranges of R31. -/
theorem busyCase_keeps_legal {s t : State} (hb : s.busy = true) (hs : SequencerLegal s) (hc : BusyCase s t) :
    SequencerLegal t := by
  obtain ⟨whole, index, unfinished, -⟩ := (sequencerLegal_busy_iff hb).mp hs
  cases hc with
  | load1 alg phase more next | load2 alg phase more next =>
    subst next
    exact sequencerLegal_of_busy hb whole index (fun _ => more) (by simp [alg, Alg.nr])
  | round1 r alg phase bound next | round2 r alg phase bound next =>
    subst next
    have more : s.j < s.blocks.length := unfinished (by simp [phase])
    refine sequencerLegal_of_busy hb whole index (fun _ => more) fun u hu => ?_
    simp only [roundSha1_phase, roundSha256_phase] at hu
    split at hu <;> cases hu
    simp only [roundSha1_alg, roundSha256_alg, alg, Alg.nr]
    omega
  | fold1 alg phase more next | fold2 alg phase more next =>
    subst next
    exact sequencerLegal_of_busy hb whole more (by simp) (by simp)
  | done phase last next =>
    subst next
    exact sequencerLegal_of_idle rfl rfl rfl

theorem startComp_legal {c : Alg} {Bs : List Block} (s : State) (whole : wholeBlocks Bs = true) :
    SequencerLegal (startComp c Bs s) :=
  sequencerLegal_of_busy rfl whole (Nat.zero_le _) (by simp) (by simp)

/-- A command run whole leaves an idle sequencer idle. -/
theorem exec_keeps_idle_legal {i : Instr} {s t : State} (idle : s.busy = false) (hs : SequencerLegal s)
    (h : exec i s = .next t) : SequencerLegal t := by
  obtain ⟨phase, blocks⟩ := (sequencerLegal_idle_iff idle).mp hs
  obtain ⟨u, hu, -, -, -, -, keepsIdle, keepsPhase, keepsBlocks⟩ := exec_answers i s
  cases hu.symm.trans h
  exact sequencerLegal_of_idle (keepsIdle idle) (keepsPhase phase) (keepsBlocks blocks)

/-- Settles O45: every outcome of a step keeps the ranges; RESET and DONE end in the idle state, a `COMP` starts from whole
blocks because the decoder cuts no others. -/
theorem stepsKeepTheSequencerLegal : Obligations.StepsKeepTheSequencerLegal := by
  intro s t hs h
  cases step_cases s with
  | reset due out => cases out.symm.trans h; exact sequencerLegal_of_idle rfl rfl rfl
  | busy notDue busy out =>
    exact busyCase_keeps_legal (s := countDown s) busy hs (busyStep_cases (out.symm.trans h))
  | idle notDue idle port out => cases out.symm.trans h; exact hs
  | rejected F rest r notDue idle port decoded out => cases out.symm.trans h; exact hs
  | command F rest i notDue idle port decoded whole out =>
    exact exec_keeps_idle_legal (s := takeFrame rest (countDown s)) idle hs (out.symm.trans h)
  | start F rest i c Bs notDue idle port decoded grain comp out =>
    cases out.symm.trans h
    exact startComp_legal _ (decode_comp_whole decoded comp)

end Sys2Proof.Machine
end

section
/-! ### What a command does, said once for all eight, and that it stays in its core (R25) -/

namespace Sys2Proof.Machine

/-- `H1` after the command `i`, from what it held before (R121 to R123); the other core's commands leave it. -/
def file1After (i : Instr) (H : Vector Word 5) : Vector Word 5 :=
  match i with
  | .sha1Init => iv1
  | .sha1Ldst S => if S.length = 5 then loadFile 5 S else H
  | .sha1Comp Bs => if wholeBlocks Bs then sha1Compress H Bs else H
  | _ => H

/-- `H2` after the command `i`, from what it held before (R151 to R153); the other core's commands leave it. -/
def file2After (i : Instr) (H : Vector Word 8) : Vector Word 8 :=
  match i with
  | .sha256Init => iv2
  | .sha256Ldst S => if S.length = 8 then loadFile 8 S else H
  | .sha256Comp Bs => if wholeBlocks Bs then sha256Compress H Bs else H
  | _ => H

/-- The response to the command `i`, from the two state files (R70 to R72). -/
def answer (i : Instr) (H1 : Vector Word 5) (H2 : Vector Word 8) : Frame :=
  match i with
  | .sha1Init | .sha256Init => [statusOk]
  | .sha1Ldst S => if S.length = 5 then [statusOk] else [Error.invalidOperandLength.status]
  | .sha256Ldst S => if S.length = 8 then [statusOk] else [Error.invalidOperandLength.status]
  | .sha1Comp Bs | .sha256Comp Bs => if wholeBlocks Bs then [statusOk] else [Error.invalidBlockLength.status]
  | .sha1Rdst => statusOk :: rdstData H1.toList
  | .sha256Rdst => statusOk :: rdstData H2.toList

/-- The command `i` is a `COMP` that runs, so that it ends with the sequencer's DONE (R119, R149). -/
def completesComp (i : Instr) : Bool :=
  match i with
  | .sha1Comp Bs | .sha256Comp Bs => wholeBlocks Bs
  | _ => false

/-- What the command `i` makes of the state files, the responses, the other core's transients and the sequencer, with what
no command touches: `t` after it, `s` before. -/
structure ExecEffect (i : Instr) (s t : State) : Prop where
  h1 : t.h1 = file1After i s.h1
  h2 : t.h2 = file2After i s.h2
  responses : t.responses = s.responses ++ [answer i s.h1 s.h2]
  transients2 : i.alg = .sha1 → t.v2 = s.v2 ∧ t.w2 = s.w2
  transients1 : i.alg = .sha256 → t.v1 = s.v1 ∧ t.w1 = s.w1
  busy : t.busy = if completesComp i then false else s.busy
  phase : t.phase = if completesComp i then .awaitingBlock else s.phase
  blocks : t.blocks = if completesComp i then [] else s.blocks
  port : t.port = s.port
  resets : t.resets = s.resets
  grain : t.grain = s.grain

/-- Every command completes, with its effect. -/
theorem exec_effect (i : Instr) (s : State) : ∃ t, exec i s = .next t ∧ ExecEffect i s t := by
  cases i with
  | sha1Init | sha1Rdst | sha256Init | sha256Rdst =>
    exact ⟨_, rfl, rfl, rfl, rfl, fun _ => ⟨rfl, rfl⟩, fun _ => ⟨rfl, rfl⟩, rfl, rfl, rfl, rfl, rfl, rfl⟩
  | sha1Ldst S | sha256Ldst S =>
    simp only [exec, execSha1Ldst, execSha256Ldst]
    split <;> exact ⟨_, rfl, by constructor <;> simp [file1After, file2After, answer, completesComp, Instr.alg, *]⟩
  | sha1Comp Bs | sha256Comp Bs =>
    simp only [exec, execSha1Comp, execSha256Comp]
    split <;> exact ⟨_, rfl, by constructor <;> simp [file1After, file2After, answer, completesComp, Instr.alg, *]⟩

theorem exec_effect_of_next {i : Instr} {s t : State} (h : exec i s = .next t) : ExecEffect i s t := by
  obtain ⟨u, hu, effect⟩ := exec_effect i s
  cases hu.symm.trans h
  exact effect

theorem file1After_of_sha256 {i : Instr} (h : i.alg = .sha256) (H : Vector Word 5) : file1After i H = H := by
  cases i with
  | sha1Init | sha1Ldst | sha1Comp | sha1Rdst => cases h
  | sha256Init | sha256Ldst | sha256Comp | sha256Rdst => rfl

theorem file2After_of_sha1 {i : Instr} (h : i.alg = .sha1) (H : Vector Word 8) : file2After i H = H := by
  cases i with
  | sha1Init | sha1Ldst | sha1Comp | sha1Rdst => rfl
  | sha256Init | sha256Ldst | sha256Comp | sha256Rdst => cases h

/-- The response depends on the state file of the command's own core alone (R25). -/
theorem answer_congr {i : Instr} {H1 K1 : Vector Word 5} {H2 K2 : Vector Word 8} (h1 : i.alg = .sha1 → K1 = H1)
    (h2 : i.alg = .sha256 → K2 = H2) : answer i K1 K2 = answer i H1 H2 := by
  cases i with
  | sha1Rdst => rw [h1 rfl]; rfl
  | sha256Rdst => rw [h2 rfl]; rfl
  | sha1Init | sha1Ldst | sha1Comp | sha256Init | sha256Ldst | sha256Comp => rfl

/-- Settles O31: by `ExecEffect` the new file and the response are functions of the old file. -/
theorem commandsStayInTheirCore : Obligations.CommandsStayInTheirCore := by
  intro i s
  obtain ⟨t, ht, effect⟩ := exec_effect i s
  refine ⟨⟨t, ht, fun hi => ?_, fun hi => ?_⟩, fun s' same1 same2 => ?_⟩
  · exact ⟨effect.h2.trans (file2After_of_sha1 hi _), effect.transients2 hi⟩
  · exact ⟨effect.h1.trans (file1After_of_sha256 hi _), effect.transients1 hi⟩
  · obtain ⟨t', ht', effect'⟩ := exec_effect i s'
    refine ⟨t, t', answer i s.h1 s.h2, ht, ht', fun hi => ?_, fun hi => ?_, effect.responses, ?_⟩
    · rw [effect'.h1, effect.h1, same1 hi]
    · rw [effect'.h2, effect.h2, same2 hi]
    · rw [effect'.responses, answer_congr same1 same2]

end Sys2Proof.Machine
end

section
/-! ### What is left in the transients never reaches a later response (R24, R28, R30, R33, R40) -/

namespace Sys2Proof.Machine

/-! ### Agreement of the schedules and of the live transients -/

/-- Schedules that agree below `max 16 n` agree below `max 16 (n + 1)` once each has computed its word `n` (R112, R127). -/
theorem extend1_keeps_agreement {W X : Vector Word 80} {n : Nat} (hn : n < 80)
    (h : ∀ i, i < max 16 n → readReg W i = readReg X i) (i : Nat) (hi : i < max 16 (n + 1)) :
    readReg (if 16 ≤ n then extend1 W n else W) i = readReg (if 16 ≤ n then extend1 X n else X) i := by
  by_cases hg : 16 ≤ n
  · rw [if_pos hg, if_pos hg]
    by_cases hin : i = n
    · subst hin
      rw [extend1_read_same _ _ hn, extend1_read_same _ _ hn, h _ (by omega), h _ (by omega), h _ (by omega), h _ (by omega)]
    · rw [extend1_read_other _ _ _ hin, extend1_read_other _ _ _ hin, h i (by omega)]
  · rw [if_neg hg, if_neg hg, h i (by omega)]

/-- The same on core SHA256 (R142, R157). -/
theorem extend2_keeps_agreement {W X : Vector Word 64} {n : Nat} (hn : n < 64)
    (h : ∀ i, i < max 16 n → readReg W i = readReg X i) (i : Nat) (hi : i < max 16 (n + 1)) :
    readReg (if 16 ≤ n then extend2 W n else W) i = readReg (if 16 ≤ n then extend2 X n else X) i := by
  by_cases hg : 16 ≤ n
  · rw [if_pos hg, if_pos hg]
    by_cases hin : i = n
    · subst hin
      rw [extend2_read_same _ _ hn, extend2_read_same _ _ hn, h _ (by omega), h _ (by omega), h _ (by omega), h _ (by omega)]
    · rw [extend2_read_other _ _ _ hin, extend2_read_other _ _ _ hin, h i (by omega)]
  · rw [if_neg hg, if_neg hg, h i (by omega)]

/-- Before a LOAD no transient is live. -/
theorem liveAgree_of_awaiting {s t : State} (h : s.phase = .awaitingBlock) : LiveAgree s t :=
  ⟨fun hne => absurd h hne, fun r hr => by rw [h] at hr; cases hr⟩

theorem liveAgree_sha1_iff {s t : State} (alg : s.alg = .sha1) :
    LiveAgree s t ↔ (s.phase ≠ .awaitingBlock → s.v1 = t.v1) ∧
      ∀ r, s.phase = .processingRound r → ∀ i, i < max 16 r → readReg s.w1 i = readReg t.w1 i := by
  simp [LiveAgree, alg]

theorem liveAgree_sha256_iff {s t : State} (alg : s.alg = .sha256) :
    LiveAgree s t ↔ (s.phase ≠ .awaitingBlock → s.v2 = t.v2) ∧
      ∀ r, s.phase = .processingRound r → ∀ i, i < max 16 r → readReg s.w2 i = readReg t.w2 i := by
  simp [LiveAgree, alg]

theorem loadSha1_liveAgree {s t : State} (B : Block) (alg : s.alg = .sha1) (h1 : s.h1 = t.h1) :
    LiveAgree (loadSha1 B s) (loadSha1 B t) := by
  refine (liveAgree_sha1_iff (s := loadSha1 B s) alg).mpr ⟨fun _ => by simp [h1], fun r hr i hi => ?_⟩
  cases hr
  exact (decodeBlock1_read B s.w1 i hi).trans (decodeBlock1_read B t.w1 i hi).symm

theorem loadSha256_liveAgree {s t : State} (B : Block) (alg : s.alg = .sha256) (h2 : s.h2 = t.h2) :
    LiveAgree (loadSha256 B s) (loadSha256 B t) := by
  refine (liveAgree_sha256_iff (s := loadSha256 B s) alg).mpr ⟨fun _ => by simp [h2], fun r hr i hi => ?_⟩
  cases hr
  exact (decodeBlock2_read B s.w2 i hi).trans (decodeBlock2_read B t.w2 i hi).symm

theorem roundSha1_liveAgree {s t : State} {r : Nat} (alg : s.alg = .sha1) (phase : s.phase = .processingRound r)
    (bound : r < 80) (live : LiveAgree s t) : LiveAgree (roundSha1 r s) (roundSha1 r t) := by
  obtain ⟨hv, hw⟩ := (liveAgree_sha1_iff alg).mp live
  have words := extend1_keeps_agreement bound (hw r phase)
  refine (liveAgree_sha1_iff (s := roundSha1 r s) alg).mpr ⟨fun _ => ?_, fun q hq => ?_⟩
  · rw [roundSha1_v1, roundSha1_v1, hv (by simp [phase])]
    exact round1_congr _ _ (words r (by omega))
  · rw [roundSha1_phase] at hq
    split at hq <;> cases hq
    exact words

theorem roundSha256_liveAgree {s t : State} {r : Nat} (alg : s.alg = .sha256) (phase : s.phase = .processingRound r)
    (bound : r < 64) (live : LiveAgree s t) : LiveAgree (roundSha256 r s) (roundSha256 r t) := by
  obtain ⟨hv, hw⟩ := (liveAgree_sha256_iff alg).mp live
  have words := extend2_keeps_agreement bound (hw r phase)
  refine (liveAgree_sha256_iff (s := roundSha256 r s) alg).mpr ⟨fun _ => ?_, fun q hq => ?_⟩
  · rw [roundSha256_v2, roundSha256_v2, hv (by simp [phase])]
    exact round2_congr _ _ (words r (by omega))
  · rw [roundSha256_phase] at hq
    split at hq <;> cases hq
    exact words

/-! ### What a step does to two states a host cannot tell apart -/

/-- The row of R119 or R149 whose condition holds is the sequencer's step. -/
theorem busyStep_of_case {s t : State} (h : BusyCase s t) : busyStep s = .next t := by
  cases h with
  | load1 alg phase more next | load2 alg phase more next => simp [busyStep, loadStep, alg, phase, more, next]
  | round1 r alg phase bound next | round2 r alg phase bound next =>
    simp [busyStep, roundStep, alg, phase, bound, next, Alg.nr]
  | fold1 alg phase more next | fold2 alg phase more next => simp [busyStep, foldStep, alg, phase, more, next]
  | done phase last next => simp [busyStep, phase, last, next]

theorem sameToHost_countDown {s t : State} (h : SameToHost s t) : SameToHost (countDown s) (countDown t) := by
  obtain ⟨h1, h2, busy, phase, blocks, port, responses, resets, grain, live⟩ := h
  exact ⟨h1, h2, busy, phase, blocks, port, responses, by simp [resets], grain, live⟩

theorem sameToHost_takeFrame {s t : State} (rest : List Frame) (h : SameToHost s t) :
    SameToHost (takeFrame rest s) (takeFrame rest t) := by
  obtain ⟨h1, h2, busy, phase, blocks, -, responses, resets, grain, live⟩ := h
  exact ⟨h1, h2, busy, phase, blocks, rfl, responses, resets, grain, live⟩

theorem sameToHost_raise {s t : State} (e : Error) (h : SameToHost s t) : SameToHost (raise e s) (raise e t) := by
  obtain ⟨h1, h2, busy, phase, blocks, port, responses, resets, grain, live⟩ := h
  exact ⟨h1, h2, busy, phase, blocks, port, by simp [responses], resets, grain, live⟩

theorem sameToHost_startComp {s t : State} (c : Alg) (Bs : List Block) (h : SameToHost s t) :
    SameToHost (startComp c Bs s) (startComp c Bs t) := by
  obtain ⟨h1, h2, -, -, -, port, responses, resets, grain, -⟩ := h
  exact ⟨h1, h2, rfl, rfl, rfl, port, responses, resets, grain, fun _ => ⟨rfl, rfl, liveAgree_of_awaiting rfl⟩⟩

/-- The same command run whole keeps two idle states alike: it reads the state files alone. -/
theorem exec_sameToHost {i : Instr} {s t s' : State} (h : SameToHost s t) (idle : s.busy = false)
    (hs : exec i s = .next s') : ∃ t', exec i t = .next t' ∧ SameToHost s' t' := by
  obtain ⟨h1, h2, busy, phase, blocks, port, responses, resets, grain, -⟩ := h
  obtain ⟨t', ht, et⟩ := exec_effect i t
  have es : ExecEffect i s s' := exec_effect_of_next hs
  refine ⟨t', ht, ?_, ?_, ?_, ?_, ?_, ?_, ?_, ?_, ?_, fun hb => ?_⟩
  · rw [es.h1, et.h1, h1]
  · rw [es.h2, et.h2, h2]
  · rw [es.busy, et.busy, busy]
  · rw [es.phase, et.phase, phase]
  · rw [es.blocks, et.blocks, blocks]
  · rw [es.port, et.port, port]
  · rw [es.responses, et.responses, responses, h1, h2]
  · rw [es.resets, et.resets, resets]
  · rw [es.grain, et.grain, grain]
  · simp [es.busy, idle] at hb

/-- Each row of R119 and R149, taken from two states alike, is the same row in both and leaves them alike. -/
theorem busyCase_sameToHost {s t s' : State} (h : SameToHost s t) (hb : s.busy = true) (hc : BusyCase s s') :
    ∃ t', BusyCase t t' ∧ SameToHost s' t' := by
  obtain ⟨h1, h2, busy, hphase, blocks, port, responses, resets, grain, working⟩ := h
  obtain ⟨halg, hj, live⟩ := working hb
  cases hc with
  | load1 alg phase more next =>
    subst next
    rw [hj, blocks] at more ⊢
    exact ⟨_, .load1 (halg ▸ alg) (hphase ▸ phase) more rfl, h1, h2, busy, rfl, blocks, port, responses, resets, grain,
      fun _ => ⟨halg, hj, loadSha1_liveAgree _ alg h1⟩⟩
  | load2 alg phase more next =>
    subst next
    rw [hj, blocks] at more ⊢
    exact ⟨_, .load2 (halg ▸ alg) (hphase ▸ phase) more rfl, h1, h2, busy, rfl, blocks, port, responses, resets, grain,
      fun _ => ⟨halg, hj, loadSha256_liveAgree _ alg h2⟩⟩
  | round1 r alg phase bound next =>
    subst next
    exact ⟨_, .round1 r (halg ▸ alg) (hphase ▸ phase) bound rfl, h1, h2, busy, rfl, blocks, port, responses, resets, grain,
      fun _ => ⟨halg, hj, roundSha1_liveAgree alg phase bound live⟩⟩
  | round2 r alg phase bound next =>
    subst next
    exact ⟨_, .round2 r (halg ▸ alg) (hphase ▸ phase) bound rfl, h1, h2, busy, rfl, blocks, port, responses, resets, grain,
      fun _ => ⟨halg, hj, roundSha256_liveAgree alg phase bound live⟩⟩
  | fold1 alg phase more next =>
    subst next
    have hv : s.v1 = t.v1 := ((liveAgree_sha1_iff alg).mp live).1 (by simp [phase])
    exact ⟨_, .fold1 (halg ▸ alg) (hphase ▸ phase) (hj ▸ blocks ▸ more) rfl, by simp [h1, hv], h2, busy, rfl, blocks,
      port, responses, resets, grain, fun _ => ⟨halg, congrArg (· + 1) hj, liveAgree_of_awaiting rfl⟩⟩
  | fold2 alg phase more next =>
    subst next
    have hv : s.v2 = t.v2 := ((liveAgree_sha256_iff alg).mp live).1 (by simp [phase])
    exact ⟨_, .fold2 (halg ▸ alg) (hphase ▸ phase) (hj ▸ blocks ▸ more) rfl, h1, by simp [h2, hv], busy, rfl, blocks,
      port, responses, resets, grain, fun _ => ⟨halg, congrArg (· + 1) hj, liveAgree_of_awaiting rfl⟩⟩
  | done phase last next =>
    subst next
    exact ⟨_, .done (hphase ▸ phase) (hj ▸ blocks ▸ last) rfl, h1, h2, rfl, rfl, rfl, port, by simp [responses], resets,
      grain, fun hb => by cases hb⟩

theorem busyStep_sameToHost {s t s' : State} (h : SameToHost s t) (hb : s.busy = true) (hs : busyStep s = .next s') :
    ∃ t', busyStep t = .next t' ∧ SameToHost s' t' := by
  obtain ⟨t', hc, same⟩ := busyCase_sameToHost h hb (busyStep_cases hs)
  exact ⟨t', busyStep_of_case hc, same⟩

theorem step_eq_busyStep {s : State} (notDue : s.resets.head? ≠ some 0) (busy : s.busy = true) :
    step s = busyStep (countDown s) := by
  simp [step, runStep, notDue, advance, busy]

theorem step_eq_countDown {s : State} (notDue : s.resets.head? ≠ some 0) (idle : s.busy = false) (port : s.port = []) :
    step s = .next (countDown s) := by
  simp [step, runStep, notDue, advance, idle, port]

theorem step_eq_acceptFrame {s : State} {F : Frame} {rest : List Frame} (notDue : s.resets.head? ≠ some 0)
    (idle : s.busy = false) (port : s.port = F :: rest) : step s = acceptFrame F (takeFrame rest (countDown s)) := by
  simp [step, runStep, notDue, advance, idle, port]

/-- A `COMP` that decodes is started at the granularity of phases. -/
theorem acceptFrame_start {F : Frame} {i : Instr} {c : Alg} {Bs : List Block} {s : State} (decoded : decode F = .ok i)
    (grain : s.grain = .phase) (comp : compOf i = some (c, Bs)) : acceptFrame F s = .next (startComp c Bs s) := by
  simp [acceptFrame, decoded, startCommand, grain, comp]

/-- Settles O53: the outcome of the step of `s` fixes that of `t`, and each outcome leaves the two alike. -/
theorem leftoversNeverReachTheHost : Obligations.LeftoversNeverReachTheHost := by
  intro s t s' same notDue hs
  have sameNow : SameToHost (countDown s) (countDown t) := sameToHost_countDown same
  have sameTaken (rest) := sameToHost_takeFrame rest sameNow
  obtain ⟨-, -, hbusy, -, -, hport, -, hresets, hgrain, -⟩ := same
  have notDueT : t.resets.head? ≠ some 0 := hresets ▸ notDue
  cases step_cases s with
  | reset due out => exact absurd due notDue
  | busy _ busy out =>
    rw [step_eq_busyStep notDueT (hbusy ▸ busy)]
    exact busyStep_sameToHost sameNow busy (out.symm.trans hs)
  | idle _ idle port out =>
    cases out.symm.trans hs
    exact ⟨_, step_eq_countDown notDueT (hbusy ▸ idle) (hport ▸ port), sameNow⟩
  | rejected F rest r _ idle port decoded out =>
    cases out.symm.trans hs
    rw [step_eq_acceptFrame notDueT (hbusy ▸ idle) (hport ▸ port)]
    exact ⟨_, acceptFrame_rejected _ decoded, sameToHost_raise _ (sameTaken rest)⟩
  | command F rest i _ idle port decoded whole out =>
    rw [step_eq_acceptFrame notDueT (hbusy ▸ idle) (hport ▸ port), acceptFrame_command _ decoded (hgrain ▸ whole)]
    exact exec_sameToHost (sameTaken rest) idle (out.symm.trans hs)
  | start F rest i c Bs _ idle port decoded grain comp out =>
    cases out.symm.trans hs
    rw [step_eq_acceptFrame notDueT (hbusy ▸ idle) (hport ▸ port)]
    exact ⟨_, acceptFrame_start decoded (hgrain ▸ grain) comp, sameToHost_startComp c Bs (sameTaken rest)⟩

end Sys2Proof.Machine
end

section
/-! ### The constants of core SHA256 (R37, R38) and the reset state (R42, R196) -/

namespace Sys2Proof.Machine

/-- The primes up to 311, in order (R38). -/
def primesTo311 : List Nat :=
  [2, 3, 5, 7, 11, 13, 17, 19, 23, 29, 31, 37, 41, 43, 47, 53, 59, 61, 67, 71, 73, 79, 83, 89, 97, 101, 103, 107, 109, 113,
    127, 131, 137, 139, 149, 151, 157, 163, 167, 173, 179, 181, 191, 193, 197, 199, 211, 223, 227, 229, 233, 239, 241, 251,
    257, 263, 269, 271, 277, 281, 283, 293, 307, 311]

/-- Below 18^2 trial division by the numbers below 18 decides primality. -/
theorem prime_iff_trial_division {p : Nat} (hp : p < 18 ^ 2) :
    p.Prime ↔ 2 ≤ p ∧ ∀ d, d < 18 → d ∣ p → d = 1 ∨ d = p := by
  constructor
  · exact fun h => ⟨h.two_le, fun d _ hd => (Nat.dvd_prime h).mp hd⟩
  · rintro ⟨htwo, htrial⟩
    refine Nat.prime_def_le_sqrt.mpr ⟨htwo, fun m hm hle hdvd => ?_⟩
    have hsqrt : Nat.sqrt p < 18 := Nat.sqrt_lt'.mpr hp
    have hself : Nat.sqrt p < p := Nat.sqrt_lt_self htwo
    rcases htrial m (by omega) hdvd with h | h <;> omega

theorem primesTo311_eq_filter :
    primesTo311 = (List.range 312).filter fun p => 2 ≤ p ∧ ∀ d, d < 18 → d ∣ p → d = 1 ∨ d = p := by
  decide +kernel

theorem mem_primesTo311 (p : Nat) : p ∈ primesTo311 ↔ 2 ≤ p ∧ p ≤ 311 ∧ ∀ d, d ∣ p → d = 1 ∨ d = p := by
  have hfilter : p ∈ primesTo311 ↔ p < 312 ∧ p.Prime := by
    rw [primesTo311_eq_filter, List.mem_filter, List.mem_range, decide_eq_true_eq]
    exact and_congr_right fun h => (prime_iff_trial_division (by omega)).symm
  rw [hfilter, Nat.prime_def, Nat.lt_succ_iff, and_left_comm]

theorem primesTo311_increasing : primesTo311.Pairwise (· < ·) :=
  primesTo311_eq_filter ▸ List.pairwise_lt_range.filter _

/-- `IV2[i]` is the square root of the `i`-th prime times 2^32, truncated, modulo 2^32. -/
theorem iv2_eq_sqrt : ∀ i : Fin 8,
    (readReg iv2 i).toNat = Nat.sqrt (primesTo311.getD i 0 * 2 ^ 64) % 2 ^ 32 := by
  decide +kernel

/-- `K2[i]` is the cube root of the `i`-th prime times 2^32, truncated, modulo 2^32. -/
theorem k2_eq_cbrt : ∀ i : Fin 64,
    (readReg k2 i).toNat = Nat.nthRoot 3 (primesTo311.getD i 0 * 2 ^ 96) % 2 ^ 32 := by
  decide +kernel

/-- Settles O16: the roots are the floors Mathlib computes, `Nat.sqrt` and `Nat.nthRoot 3`. -/
theorem sha256ConstantsAreRootFractions : Obligations.Sha256ConstantsAreRootFractions := by
  refine ⟨primesTo311, rfl, mem_primesTo311, primesTo311_increasing, fun i hi => ?_, fun i hi => ?_⟩
  · exact ⟨_, Nat.sqrt_le' _, Nat.lt_succ_sqrt' _, iv2_eq_sqrt ⟨i, hi⟩⟩
  · exact ⟨_, Nat.pow_nthRoot_le (.inl (by decide)), Nat.lt_pow_nthRoot_add_one (by decide) _, k2_eq_cbrt ⟨i, hi⟩⟩

/-- Settles O42: while idle nothing is claimed of the datapath, and the sequencer is legal in its idle state. -/
theorem resetStateIsIdleAndOpen : Obligations.ResetStateIsIdleAndOpen := by
  refine ⟨rfl, rfl, rfl, rfl, rfl, fun i hi => ?_, fun i hi => ?_, ?_, ?_⟩
  · exact Vector.getElem_ofFn hi
  · exact Vector.getElem_ofFn hi
  · exact ⟨rfl, rfl⟩
  · intro busy; cases busy

end Sys2Proof.Machine
end

section
/-! ### Reads and writes of frame bytes (spec/20_memory.md R44 to R48) -/

namespace Sys2Proof.Machine

/-! ### `MemRead` -/

theorem memRead_one (P : List Byte) (addr : Nat) : memRead P addr 1 = (byteAt P addr).toNat := by
  simp [memRead]

theorem memReadWord_toNat (P : List Byte) (addr : Nat) : (memReadWord P addr).toNat = memRead P addr 4 := by
  rw [memReadWord_eq, fromBE32_toNat, memRead_four]

/-- The Horner form in which the model reads four bytes, with the weights multiplied out. -/
theorem memRead_four_weights (P : List Byte) (addr : Nat) :
    memRead P addr 4 = (byteAt P addr).toNat * 2 ^ 24 + (byteAt P (addr + 1)).toNat * 2 ^ 16 +
      (byteAt P (addr + 2)).toNat * 2 ^ 8 + (byteAt P (addr + 3)).toNat := by
  rw [memRead_four]
  omega

/-- Settles O5: the two defined sizes of the read, each a sum of weighed bytes. -/
theorem memReadIsBigEndian : Obligations.MemReadIsBigEndian :=
  fun P addr => ⟨fun _ => memRead_one P addr, fun _ => memRead_four_weights P addr⟩

/-! ### `MemWrite`: one byte, then `n` of them -/

/-- Inside the data one byte is replaced, at its end one is appended. -/
theorem putByte_length (Q : List Byte) {a : Nat} (b : Byte) (ha : a ≤ Q.length) :
    (putByte Q a b).length = max Q.length (a + 1) := by
  rcases Nat.lt_or_eq_of_le ha with inside | rfl
  · rw [putByte, if_pos inside, List.length_set]
    omega
  · simp [putByte_end]

theorem byteAt_putByte (Q : List Byte) {a : Nat} (b : Byte) (ha : a ≤ Q.length) (i : Nat) :
    byteAt (putByte Q a b) i = if i = a then b else byteAt Q i := by
  rcases Nat.lt_or_eq_of_le ha with inside | rfl
  · rw [putByte, if_pos inside]
    by_cases hi : i = a
    · simp [byteAt, hi, inside]
    · simp [byteAt, hi, Ne.symm hi]
  · rw [putByte_end]
    rcases Nat.lt_trichotomy i Q.length with before | rfl | past
    · simp [byteAt, List.getElem?_append, before, before.ne]
    · simp [byteAt]
    · simp [byteAt, past.ne', past.not_gt, past.not_ge]

/-- The bytes `f 0` to `f (n - 1)` stored from offset `addr` on, as `memWrite` stores those of its value. -/
def putBytes (Q : List Byte) (addr : Nat) (f : Nat → Byte) (n : Nat) : List Byte :=
  (List.range n).foldl (fun Q k => putByte Q (addr + k) (f k)) Q

theorem memWrite_eq_putBytes (Q : List Byte) (addr n v : Nat) :
    memWrite Q addr n v = putBytes Q addr (fun k => BitVec.ofNat 8 (v / 256 ^ (n - k - 1))) n := rfl

theorem putBytes_succ (Q : List Byte) (addr : Nat) (f : Nat → Byte) (n : Nat) :
    putBytes Q addr f (n + 1) = putByte (putBytes Q addr f n) (addr + n) (f n) := by
  simp [putBytes, List.range_succ]

theorem putBytes_length (Q : List Byte) {addr : Nat} (f : Nat → Byte) (n : Nat) (ha : addr ≤ Q.length) :
    (putBytes Q addr f n).length = max Q.length (addr + n) := by
  induction n with
  | zero => simpa [putBytes] using ha
  | succ n ih =>
    rw [putBytes_succ, putByte_length _ _ (by omega), ih]
    omega

theorem byteAt_putBytes (Q : List Byte) {addr : Nat} (f : Nat → Byte) (n : Nat) (ha : addr ≤ Q.length) (i : Nat) :
    byteAt (putBytes Q addr f n) i = if addr ≤ i ∧ i < addr + n then f (i - addr) else byteAt Q i := by
  induction n with
  | zero => rw [if_neg (by omega)]; rfl
  | succ n ih =>
    have hlen := putBytes_length Q f n ha
    rw [putBytes_succ, byteAt_putByte _ _ (by omega), ih]
    by_cases last : i = addr + n
    · rw [if_pos last, if_pos (by omega), last, Nat.add_sub_cancel_left]
    · rw [if_neg last]
      exact if_congr (by omega) rfl rfl

/-- Settles O6: a write past no end, for any number of bytes, is `putBytes` of the bytes of the value. -/
theorem memWriteIsBigEndian : Obligations.MemWriteIsBigEndian := by
  intro Q addr n v _ _ ha
  rw [memWrite_eq_putBytes]
  refine ⟨fun k hk => ?_, fun i hi => ?_, putBytes_length Q _ n ha⟩
  · rw [byteAt_putBytes Q _ n ha, if_pos (by omega), Nat.add_sub_cancel_left, BitVec.toNat_ofNat, pow_mul]
    rfl
  · rw [byteAt_putBytes Q _ n ha, if_neg (by omega)]

/-! ### Blocks cut out of a payload (R44, R48) -/

theorem compOperand_getD (P : List Byte) {j : Nat} (hj : 64 * (j + 1) ≤ P.length) :
    (compOperand P).getD j [] = (P.drop (64 * j)).take 64 := by
  have hlt : j < P.length / 64 := by omega
  simp [compOperand, hlt]

theorem byteAt_block (P : List Byte) (j : Nat) {k : Nat} (hk : k < 64) :
    byteAt ((P.drop (64 * j)).take 64) k = byteAt P (64 * j + k) := by
  simp [byteAt, hk]

/-- Word `i` of block `j` lies at offset `64j + 4i` of the payload. -/
theorem blockWord_compOperand (P : List Byte) {j i : Nat} (hj : 64 * (j + 1) ≤ P.length) (hi : i < 16) :
    blockWord ((compOperand P).getD j []) i = memReadWord P (64 * j + 4 * i) := by
  rw [blockWord, compOperand_getD P hj, memReadWord_eq, byteAt_block P j (by omega), byteAt_block P j (by omega),
    byteAt_block P j (by omega), byteAt_block P j (by omega)]
  rfl

/-- Settles O7: a block word is the read at its offset in the payload, and a read weighs its bytes. -/
theorem blockWordsAreBigEndianReads : Obligations.BlockWordsAreBigEndianReads := by
  intro P j i hj hi
  refine ⟨blockWord_compOperand P hj hi, ?_, fun B => ?_⟩
  · rw [memReadWord_toNat, memRead_four_weights]
  · have bytes : blockWord (0x61 :: 0x62 :: 0x63 :: 0x80 :: B) 0 = fromBE32 0x61 0x62 0x63 0x80 := rfl
    exact bytes.trans (by decide)

end Sys2Proof.Machine
end

section
/-! ### Loads, reads and repeated commands (spec/20_memory.md R45, R53, R58) -/

namespace Sys2Proof.Machine

/-- A frame of a command other than `COMP` is run whole at either granularity, with the effect of its command. -/
theorem acceptFrame_effect {F : Frame} {i : Instr} (s : State) (decoded : decode F = .ok i) (whole : compOf i = none) :
    ∃ t, acceptFrame F s = .next t ∧ ExecEffect i s t := by
  rw [acceptFrame_command s decoded (.inr whole)]
  exact exec_effect i s

theorem decode_sha1Ldst {P : List Byte} (h : P.length = 20) : decode (0x11 :: P) = .ok (.sha1Ldst (ldstOperand 5 P)) :=
  (decode_opcode .sha1 .ldst P).trans (if_pos h)

theorem decode_sha256Ldst {P : List Byte} (h : P.length = 32) :
    decode (0x21 :: P) = .ok (.sha256Ldst (ldstOperand 8 P)) :=
  (decode_opcode .sha256 .ldst P).trans (if_pos h)

@[simp] theorem ldstOperand_length (n : Nat) (P : List Byte) : (ldstOperand n P).length = n := by
  simp [ldstOperand]

/-- The words loaded from a payload are written out as the bytes of that payload. -/
theorem rdstData_loadFile (n : Nat) {P : List Byte} (h : P.length = 4 * n) :
    rdstData (loadFile n (ldstOperand n P)).toList = P := by
  rw [loadFile_toList _ _ (ldstOperand_length n P), rdstData_eq, ldstOperand_inverse n P h]

/-- Settles O8: the load leaves the words of the payload in the file, and the read writes the file out. -/
theorem readReturnsTheLoadedBytes : Obligations.ReadReturnsTheLoadedBytes := by
  refine fun s P => ⟨fun hP => ?_, fun hP => ?_⟩
  · obtain ⟨t, ht, load⟩ := acceptFrame_effect s (decode_sha1Ldst hP) rfl
    obtain ⟨u, hu, read⟩ := acceptFrame_effect t (i := .sha1Rdst) (F := [0x13]) rfl rfl
    have file : t.h1 = loadFile 5 (ldstOperand 5 P) := by simp [load.h1, file1After]
    refine ⟨t, u, ht, hu, ?_⟩
    simp [read.responses, load.responses, answer, file, rdstData_loadFile 5 hP, statusOk]
  · obtain ⟨t, ht, load⟩ := acceptFrame_effect s (decode_sha256Ldst hP) rfl
    obtain ⟨u, hu, read⟩ := acceptFrame_effect t (i := .sha256Rdst) (F := [0x23]) rfl rfl
    have file : t.h2 = loadFile 8 (ldstOperand 8 P) := by simp [load.h2, file2After]
    refine ⟨t, u, ht, hu, ?_⟩
    simp [read.responses, load.responses, answer, file, rdstData_loadFile 8 hP, statusOk]

/-- Settles O32: each command leaves the file the other one reads and writes. -/
theorem commandsOfDifferentCoresCommute : Obligations.CommandsOfDifferentCoresCommute := by
  intro i k s hi hk
  obtain ⟨t, ht, ranI⟩ := exec_effect i s
  obtain ⟨u, hu, ranK⟩ := exec_effect k t
  obtain ⟨t', ht', ranK'⟩ := exec_effect k s
  obtain ⟨u', hu', ranI'⟩ := exec_effect i t'
  have same2 : t.h2 = s.h2 := ranI.h2.trans (file2After_of_sha1 hi _)
  have same1 : t'.h1 = s.h1 := ranK'.h1.trans (file1After_of_sha256 hk _)
  refine ⟨t, u, t', u', answer i s.h1 s.h2, answer k s.h1 s.h2, ht, hu, ht', hu', ?_, ?_, ?_, ?_⟩
  · rw [ranK.h1, file1After_of_sha256 hk, ranI.h1, ranI'.h1, same1]
  · rw [ranK.h2, same2, ranI'.h2, file2After_of_sha1 hi, ranK'.h2]
  · have same : answer k t.h1 t.h2 = answer k s.h1 s.h2 := answer_congr (by simp [hk]) fun _ => same2
    simp [ranK.responses, ranI.responses, same]
  · have same : answer i t'.h1 t'.h2 = answer i s.h1 s.h2 := answer_congr (fun _ => same1) (by simp [hi])
    simp [ranI'.responses, ranK'.responses, same]

/-! ### A command that is no `COMP`, done twice (R53) -/

/-- All that a command other than `COMP` does: the state files and one response, with every other field as it was. -/
theorem exec_eq_of_not_comp {i : Instr} (h : i.op ≠ .comp) (s : State) :
    exec i s = .next { s with
      h1 := file1After i s.h1, h2 := file2After i s.h2, responses := s.responses ++ [answer i s.h1 s.h2] } := by
  cases i with
  | sha1Init | sha1Rdst | sha256Init | sha256Rdst => rfl
  | sha1Ldst S => by_cases hS : S.length = 5 <;> simp [exec, execSha1Ldst, file1After, file2After, answer, hS] <;> rfl
  | sha256Ldst S => by_cases hS : S.length = 8 <;> simp [exec, execSha256Ldst, file1After, file2After, answer, hS] <;> rfl
  | sha1Comp | sha256Comp => exact absurd rfl h

/-- `INIT` and `LDST` write values that do not depend on the file, and `RDST` writes none. -/
theorem file1After_idem {i : Instr} (h : i.op ≠ .comp) (H : Vector Word 5) :
    file1After i (file1After i H) = file1After i H := by
  cases i with
  | sha1Ldst S => simp only [file1After]; split <;> rfl
  | sha1Comp => exact absurd rfl h
  | sha1Init | sha1Rdst | sha256Init | sha256Ldst | sha256Comp | sha256Rdst => rfl

theorem file2After_idem {i : Instr} (h : i.op ≠ .comp) (H : Vector Word 8) :
    file2After i (file2After i H) = file2After i H := by
  cases i with
  | sha256Ldst S => simp only [file2After]; split <;> rfl
  | sha256Comp => exact absurd rfl h
  | sha1Init | sha1Ldst | sha1Comp | sha1Rdst | sha256Init | sha256Rdst => rfl

theorem files_of_rdst {i : Instr} (h : i.op = .rdst) (H1 : Vector Word 5) (H2 : Vector Word 8) :
    file1After i H1 = H1 ∧ file2After i H2 = H2 := by
  cases i with
  | sha1Rdst | sha256Rdst => exact ⟨rfl, rfl⟩
  | sha1Init | sha1Ldst | sha1Comp | sha256Init | sha256Ldst | sha256Comp => cases h

/-- Only `RDST` answers from a file, and it leaves the file, so a command gets the same answer after itself. -/
theorem answer_after_itself (i : Instr) (H1 : Vector Word 5) (H2 : Vector Word 8) :
    answer i (file1After i H1) (file2After i H2) = answer i H1 H2 := by
  cases i <;> rfl

/-- Settles O33: the second time the files are written as they stand and the answer is the first one. -/
theorem readsAreHarmlessAndLoadsIdempotent : Obligations.ReadsAreHarmlessAndLoadsIdempotent := by
  intro i s hop
  refine ⟨_, _, answer i s.h1 s.h2, exec_eq_of_not_comp hop s, exec_eq_of_not_comp hop _, ?_, fun hr => ?_⟩
  · simp only [file1After_idem hop, file2After_idem hop, answer_after_itself, List.append_assoc, List.cons_append,
      List.nil_append]
  · obtain ⟨same1, same2⟩ := files_of_rdst hr s.h1 s.h2
    rw [same1, same2]

end Sys2Proof.Machine
end

section
/-! ### The step at an idle block (R56, R69, R119, R175, R184) -/

namespace Sys2Proof.Machine

/-- Settles O38: an idle step accepts the first frame at the port, which is run, started or rejected as it decodes. -/
theorem stepRunsTheDecodedCommand : Obligations.StepRunsTheDecodedCommand := by
  intro s idle notDue
  refine ⟨step_eq_countDown notDue idle, fun F rest port => ?_⟩
  rw [step_eq_acceptFrame notDue idle port]
  refine ⟨fun i decoded whole => ?_, fun i c Bs decoded grain comp => ?_, fun r decoded => ?_⟩
  · exact acceptFrame_command _ decoded whole
  · exact acceptFrame_start decoded grain comp
  · exact ⟨errorOf r, acceptFrame_rejected _ decoded⟩

end Sys2Proof.Machine
end

section
/-! ### The decoder and the encoder (spec/30_encoding.md R64 to R69, R73, R77) -/

namespace Sys2Proof.Machine

/-! ### The rows of R69, said once for the eight commands -/

/-- The payload lengths R65 allows after the opcode byte `opcode c o`. -/
def LegalLength (c : Alg) (o : Op) (n : Nat) : Prop :=
  match o with
  | .init | .rdst => n = 0
  | .ldst => n = 4 * c.nw
  | .comp => n % 64 = 0

/-- The command the decoder cuts out of a payload of legal length (R66 to R68). -/
def commandOf (c : Alg) (o : Op) (P : List Byte) : Instr :=
  match c, o with
  | .sha1, .init => .sha1Init
  | .sha1, .ldst => .sha1Ldst (ldstOperand Alg.sha1.nw P)
  | .sha1, .comp => .sha1Comp (compOperand P)
  | .sha1, .rdst => .sha1Rdst
  | .sha256, .init => .sha256Init
  | .sha256, .ldst => .sha256Ldst (ldstOperand Alg.sha256.nw P)
  | .sha256, .comp => .sha256Comp (compOperand P)
  | .sha256, .rdst => .sha256Rdst

/-- How R69 rejects a payload of any other length. -/
def lengthRejection (c : Alg) (o : Op) : Rejection :=
  match o with
  | .comp => .badBlockLength c
  | .init | .ldst | .rdst => .badLength c o

theorem decodePayload_of_legal {c : Alg} {o : Op} {P : List Byte} (h : LegalLength c o P.length) :
    decodePayload c o P = .ok (commandOf c o P) := by
  cases c <;> cases o <;> exact if_pos h

theorem decodePayload_of_not_legal {c : Alg} {o : Op} {P : List Byte} (h : ¬ LegalLength c o P.length) :
    decodePayload c o P = .rejected (lengthRejection c o) := by
  cases c <;> cases o <;> exact if_neg h

/-- The frames that decode: an opcode byte of the map, and a payload of a legal length. -/
theorem decode_ok_iff {F : Frame} {i : Instr} :
    decode F = .ok i ↔ ∃ c o P, F = opcode c o :: P ∧ LegalLength c o P.length ∧ commandOf c o P = i := by
  constructor
  · intro h
    rcases decode_cases F with ⟨c, o, P, rfl, hd⟩ | hd
    · by_cases legal : LegalLength c o P.length
      · rw [hd, decodePayload_of_legal legal] at h
        exact ⟨c, o, P, rfl, legal, Decoded.ok.inj h⟩
      · rw [hd, decodePayload_of_not_legal legal] at h; cases h
    · rw [hd] at h; cases h
  · rintro ⟨c, o, P, rfl, legal, rfl⟩
    rw [decode_opcode, decodePayload_of_legal legal]

/-! ### The two round trips (R77) -/

/-- What follows the opcode byte in the frame of a command (R66 to R68, R77). -/
def operandBytes : Instr → List Byte
  | .sha1Ldst S | .sha256Ldst S => S.flatMap be32
  | .sha1Comp Bs | .sha256Comp Bs => Bs.flatten
  | .sha1Init | .sha1Rdst | .sha256Init | .sha256Rdst => []

theorem encode_eq (i : Instr) : encode i = opcode i.alg i.op :: operandBytes i := by
  cases i <;> rfl

theorem operandBytes_legal {i : Instr} (h : wellFormed i = true) : LegalLength i.alg i.op (operandBytes i).length := by
  cases i with
  | sha1Init | sha1Rdst | sha256Init | sha256Rdst => exact rfl
  | sha1Ldst S | sha256Ldst S =>
    have words := beq_iff_eq.mp h
    exact (bytesOfWords_length S).trans (by rw [words]; rfl)
  | sha1Comp Bs | sha256Comp Bs =>
    have bytes : Bs.flatten.length = 64 * Bs.length := flatten_length_of_whole Bs h
    simp only [LegalLength, operandBytes, Instr.op, bytes, Nat.mul_mod_right]

theorem commandOf_operandBytes {i : Instr} (h : wellFormed i = true) : commandOf i.alg i.op (operandBytes i) = i := by
  cases i with
  | sha1Init | sha1Rdst | sha256Init | sha256Rdst => rfl
  | sha1Ldst S | sha256Ldst S =>
    have words := beq_iff_eq.mp h
    simp only [commandOf, operandBytes, Instr.alg, Instr.op, ← words, ldstOperand_bytes]
  | sha1Comp Bs | sha256Comp Bs =>
    have blocks := compOperand_flatten Bs h
    simp only [commandOf, operandBytes, Instr.alg, Instr.op, blocks]

theorem decode_encode {i : Instr} (h : wellFormed i = true) : decode (encode i) = .ok i :=
  decode_ok_iff.mpr ⟨_, _, _, encode_eq i, operandBytes_legal h, commandOf_operandBytes h⟩

theorem commandOf_wellFormed (c : Alg) (o : Op) (P : List Byte) : wellFormed (commandOf c o P) = true := by
  cases c <;> cases o <;> simp [commandOf, wellFormed, compOperand_whole]

theorem encode_commandOf {c : Alg} {o : Op} {P : List Byte} (h : LegalLength c o P.length) :
    encode (commandOf c o P) = opcode c o :: P := by
  cases o with
  | init | rdst => cases c <;> rw [List.eq_nil_of_length_eq_zero h] <;> rfl
  | ldst => cases c <;> exact congrArg _ (ldstOperand_inverse _ P h)
  | comp => cases c <;> exact congrArg _ (compOperand_flatten_inverse P h)

/-- Settles O1: encoding and cutting the operand out of a payload of legal length are inverse, command by command. -/
theorem decodeEncodeRoundTrip : Obligations.DecodeEncodeRoundTrip := by
  refine ⟨fun i => decode_encode, fun F i h => ?_, rfl, fun _ => rfl, fun _ => rfl, rfl, rfl, fun _ => rfl,
    fun _ => rfl, rfl⟩
  obtain ⟨c, o, P, rfl, legal, rfl⟩ := decode_ok_iff.mp h
  exact ⟨commandOf_wellFormed c o P, encode_commandOf legal⟩

/-! ### Reserved opcode bytes and the empty frame (R64, R69, R73) -/

theorem mem_opcodes_iff (b : Byte) :
    b ∈ ([0x10, 0x11, 0x12, 0x13, 0x20, 0x21, 0x22, 0x23] : List Byte) ↔ ∃ c o, b = opcode c o := by
  constructor
  · intro h
    simp only [List.mem_cons, List.not_mem_nil, or_false] at h
    rcases h with rfl | rfl | rfl | rfl | rfl | rfl | rfl | rfl
    exacts [⟨.sha1, .init, rfl⟩, ⟨.sha1, .ldst, rfl⟩, ⟨.sha1, .comp, rfl⟩, ⟨.sha1, .rdst, rfl⟩,
      ⟨.sha256, .init, rfl⟩, ⟨.sha256, .ldst, rfl⟩, ⟨.sha256, .comp, rfl⟩, ⟨.sha256, .rdst, rfl⟩]
  · rintro ⟨c, o, rfl⟩
    cases c <;> cases o <;> decide

/-- After an opcode byte of the map the decoder finds fault with the length alone. -/
theorem decode_opcode_ne_illegal (c : Alg) (o : Op) (P : List Byte) : decode (opcode c o :: P) ≠ .rejected .illegal := by
  rw [decode_opcode]
  by_cases legal : LegalLength c o P.length
  · simp [decodePayload_of_legal legal]
  · rw [decodePayload_of_not_legal legal]
    cases o <;> simp [lengthRejection]

theorem decode_illegal_iff (b : Byte) (P : List Byte) :
    decode (b :: P) = .rejected .illegal ↔
      b ∉ ([0x10, 0x11, 0x12, 0x13, 0x20, 0x21, 0x22, 0x23] : List Byte) := by
  rw [mem_opcodes_iff]
  constructor
  · rintro h ⟨c, o, rfl⟩
    exact decode_opcode_ne_illegal c o P h
  · intro reserved
    rcases decode_cases (b :: P) with ⟨c, o, Q, hF, -⟩ | illegal
    · exact absurd ⟨c, o, (List.cons.inj hF).1⟩ reserved
    · exact illegal

/-- `Illegal` is answered by its status byte alone (R69, R175). -/
theorem acceptFrame_illegal {F : Frame} (s : State) (h : decode F = .rejected .illegal) :
    acceptFrame F s = .next { s with responses := s.responses ++ [[0x02]] } :=
  acceptFrame_rejected s h

/-- Settles O2: the rows of the decoder in the order of R69, and each rejection by its status byte. -/
theorem decodeFollowsTheOpcodeMapAndLengths : Obligations.DecodeFollowsTheOpcodeMapAndLengths := by
  refine ⟨rfl, decode_illegal_iff, fun F r s rejected => ?_, fun P => ?_⟩
  · rw [acceptFrame_rejected s rejected]
    refine ⟨?_, ?_, ?_⟩
    · rintro rfl; rfl
    · rintro c o rfl; rfl
    · rintro c rfl; rfl
  · exact ⟨decode_opcode .sha1 .init P, decode_opcode .sha1 .ldst P, decode_opcode .sha1 .comp P,
      decode_opcode .sha1 .rdst P, decode_opcode .sha256 .init P, decode_opcode .sha256 .ldst P,
      decode_opcode .sha256 .comp P, decode_opcode .sha256 .rdst P⟩

theorem errorOf_eq_invalidOpcode_iff (r : Rejection) : errorOf r = .invalidOpcode ↔ r = .illegal := by
  cases r <;> simp [errorOf]

/-- Settles O35: `InvalidOpcode` answers `illegal` alone, and that is the empty frame or a reserved opcode byte. -/
theorem reservedOpcodeChangesNothing : Obligations.ReservedOpcodeChangesNothing := by
  refine ⟨fun s => ⟨acceptFrame_illegal s rfl, fun b P reserved => ?_⟩, fun F r rejected cause => ?_⟩
  · exact acceptFrame_illegal s ((decode_illegal_iff b P).mpr reserved)
  · rw [(errorOf_eq_invalidOpcode_iff r).mp cause] at rejected
    cases F with
    | nil => exact .inl rfl
    | cons b P => exact .inr ⟨b, P, rfl, (decode_illegal_iff b P).mp rejected⟩

/-! ### Table words and operands of a wrong length (R64, R65) -/

/-- Settles O3: eight closed facts, each computed by the decoder. -/
theorem tableWordsDecodeToTheirRows : Obligations.TableWordsDecodeToTheirRows := by
  unfold Obligations.TableWordsDecodeToTheirRows
  decide

/-- Settles O37: only `LDST` and `COMP` have an operand that can be of a wrong length, and both check it first. -/
theorem illFormedCommandsChangeNothing : Obligations.IllFormedCommandsChangeNothing := by
  intro i s h
  cases i with
  | sha1Init | sha1Rdst | sha256Init | sha256Rdst => cases h
  | sha1Ldst S | sha256Ldst S =>
    exact ⟨.invalidOperandLength, if_neg (by simpa [wellFormed, Alg.nw] using h)⟩
  | sha1Comp Bs | sha256Comp Bs =>
    exact ⟨.invalidBlockLength, if_neg (by simpa [wellFormed] using h)⟩

end Sys2Proof.Machine
end

section
/-! ### One response for each frame (spec/30_encoding.md R70 to R72, spec/60_exceptions.md R176) -/

namespace Sys2Proof.Machine

/-- Between `s` and `t` at most one response is sent, of a legal form, and each one sent is one less owed. -/
def PaysWhatItOwes (s t : State) : Prop :=
  ∃ Rs : List Frame, t.responses = s.responses ++ Rs ∧ Rs.length ≤ 1 ∧ Rs.length + owed t = owed s ∧
    ∀ R ∈ Rs, ResponseForm R

theorem paysWhatItOwes_of_silent {s t : State} (responses : t.responses = s.responses) (debt : owed t = owed s) :
    PaysWhatItOwes s t :=
  ⟨[], by simp [responses], by simp, by simp [debt], by simp⟩

theorem paysWhatItOwes_of_answer {s t : State} {R : Frame} (responses : t.responses = s.responses ++ [R])
    (form : ResponseForm R) (debt : owed t + 1 = owed s) : PaysWhatItOwes s t :=
  ⟨[R], responses, by simp, by simp [← debt, Nat.add_comm], by simpa using form⟩

/-! ### The forms of a response (R71, R72) -/

theorem responseForm_ok : ResponseForm [statusOk] :=
  ⟨statusOk, [], rfl, by decide, .inl rfl⟩

theorem responseForm_error (e : Error) : ResponseForm [e.status] :=
  ⟨e.status, [], rfl, by cases e <;> decide, .inl rfl⟩

theorem responseForm_data {Q : List Byte} (h : Q.length = 20 ∨ Q.length = 32) : ResponseForm (statusOk :: Q) :=
  ⟨statusOk, Q, rfl, by decide, .inr ⟨rfl, h⟩⟩

theorem rdstData_length {n : Nat} (H : Vector Word n) : (rdstData H.toList).length = 4 * n := by
  rw [rdstData_eq, bytesOfWords_length, Vector.length_toList]

theorem answer_form (i : Instr) (H1 : Vector Word 5) (H2 : Vector Word 8) : ResponseForm (answer i H1 H2) := by
  cases i with
  | sha1Init | sha256Init => exact responseForm_ok
  | sha1Ldst | sha256Ldst | sha1Comp | sha256Comp =>
    simp only [answer]
    split
    · exact responseForm_ok
    · exact responseForm_error _
  | sha1Rdst => exact responseForm_data (.inl (rdstData_length H1))
  | sha256Rdst => exact responseForm_data (.inr (rdstData_length H2))

/-! ### What is owed after a step -/

theorem owed_busy {s : State} (h : s.busy = true) : owed s = s.port.length + 1 := by
  simp [owed, h]

theorem owed_idle {s : State} (h : s.busy = false) : owed s = s.port.length := by
  simp [owed, h]

/-- Only DONE answers, and the command it answers is no longer owed (R119, R149). -/
theorem busyCase_paysWhatItOwes {s t : State} (busy : s.busy = true) (hc : BusyCase s t) : PaysWhatItOwes s t := by
  cases hc with
  | load1 _ _ _ next | load2 _ _ _ next | round1 _ _ _ _ next | round2 _ _ _ _ next | fold1 _ _ _ next | fold2 _ _ _ next =>
    subst next
    exact paysWhatItOwes_of_silent rfl rfl
  | done _ _ next =>
    subst next
    exact paysWhatItOwes_of_answer rfl responseForm_ok (owed_busy busy).symm

/-- A command run whole at an idle block sends its one response and leaves the block idle. -/
theorem exec_answer_and_owed {i : Instr} {s t : State} (idle : s.busy = false) (h : exec i s = .next t) :
    t.responses = s.responses ++ [answer i s.h1 s.h2] ∧ owed t = owed s := by
  have effect := exec_effect_of_next h
  have idleAfter : t.busy = false := by rw [effect.busy, idle, ite_self]
  exact ⟨effect.responses, by rw [owed_idle idleAfter, owed_idle idle, effect.port]⟩

/-- Settles O40: a step takes a frame off the port and answers it, starts it, or ends the command in execution. -/
theorem everyFrameGetsOneResponse : Obligations.EveryFrameGetsOneResponse := by
  intro s t notDue h
  cases step_cases s with
  | reset due out => exact absurd due notDue
  | busy _ busy out => exact busyCase_paysWhatItOwes (s := countDown s) busy (busyStep_cases (out.symm.trans h))
  | idle _ idle port out => cases out.symm.trans h; exact paysWhatItOwes_of_silent rfl rfl
  | rejected F rest r _ idle port decoded out =>
    cases out.symm.trans h
    exact paysWhatItOwes_of_answer rfl (responseForm_error _) (by simp [owed, idle, port])
  | command F rest i _ idle port decoded whole out =>
    obtain ⟨responses, debt⟩ := exec_answer_and_owed (s := takeFrame rest (countDown s)) idle (out.symm.trans h)
    refine paysWhatItOwes_of_answer responses (answer_form i _ _) ?_
    rw [debt, owed_idle idle, port]
    simp [owed, idle]
  | start F rest i c Bs _ idle port decoded grain comp out =>
    cases out.symm.trans h
    exact paysWhatItOwes_of_silent rfl (by simp [owed, idle, port])

end Sys2Proof.Machine
end

section
/-! ### What the host sees of frames run one after another, and the pseudo-commands (R33, R78) -/

namespace Sys2Proof.Machine

/-- What a sequence of whole commands reads and writes: the two state files and the record of responses (R33). -/
structure HostView where
  h1 : Vector Word 5
  h2 : Vector Word 8
  responses : List Frame

/-- What the host sees of a state. -/
def viewOf (s : State) : HostView :=
  ⟨s.h1, s.h2, s.responses⟩

/-- The view after the frame `F`: its command whole, or its rejection (R69, R175). -/
def afterFrame (v : HostView) (F : Frame) : HostView :=
  match decode F with
  | .ok i => ⟨file1After i v.h1, file2After i v.h2, v.responses ++ [answer i v.h1 v.h2]⟩
  | .rejected r => { v with responses := v.responses ++ [[(errorOf r).status]] }

theorem afterFrame_ok {F : Frame} {i : Instr} (v : HostView) (h : decode F = .ok i) :
    afterFrame v F = ⟨file1After i v.h1, file2After i v.h2, v.responses ++ [answer i v.h1 v.h2]⟩ := by
  simp [afterFrame, h]

theorem afterFrame_rejected {F : Frame} {r : Rejection} (v : HostView) (h : decode F = .rejected r) :
    afterFrame v F = { v with responses := v.responses ++ [[(errorOf r).status]] } := by
  simp [afterFrame, h]

/-- A ready block that runs commands whole, with the frames `Fs` at its port. -/
structure ReadyFor (Fs : List Frame) (s : State) : Prop where
  ready : Ready s
  grain : s.grain = .command
  port : s.port = Fs

/-- A command run whole at a ready block leaves it ready. -/
theorem exec_readyFor {Fs : List Frame} {i : Instr} {s t : State} (h : ReadyFor Fs s) (out : exec i s = .next t) :
    ReadyFor Fs t := by
  obtain ⟨⟨idle, phase, blocks, resets⟩, grain, port⟩ := h
  have effect := exec_effect_of_next out
  refine ⟨⟨?_, ?_, ?_, effect.resets.trans resets⟩, effect.grain.trans grain, effect.port.trans port⟩
  · rw [effect.busy, idle, ite_self]
  · rw [effect.phase, phase, ite_self]
  · rw [effect.blocks, blocks, ite_self]

/-- One frame is one step, and the step makes of the view what `afterFrame` says. -/
theorem step_readyFor {F : Frame} {rest : List Frame} {s : State} (h : ReadyFor (F :: rest) s) :
    ∃ t, step s = .next t ∧ ReadyFor rest t ∧ viewOf t = afterFrame (viewOf s) F := by
  obtain ⟨⟨idle, phase, blocks, resets⟩, grain, port⟩ := h
  have taken : ReadyFor rest (takeFrame rest s) := ⟨⟨idle, phase, blocks, resets⟩, grain, rfl⟩
  have accepts : step s = acceptFrame F (takeFrame rest s) := step_idle idle resets port
  cases decoded : decode F with
  | ok i =>
    obtain ⟨t, ht, effect⟩ := exec_effect i (takeFrame rest s)
    refine ⟨t, ?_, exec_readyFor taken ht, ?_⟩
    · rw [accepts, acceptFrame_command _ decoded (.inl taken.grain), ht]
    · rw [afterFrame_ok _ decoded, viewOf, effect.h1, effect.h2, effect.responses]; rfl
  | rejected r =>
    refine ⟨raise (errorOf r) (takeFrame rest s), ?_, ⟨⟨idle, phase, blocks, resets⟩, grain, rfl⟩, ?_⟩
    · rw [accepts, acceptFrame_rejected _ decoded]
    · rw [afterFrame_rejected _ decoded]; rfl

/-- A sequence of frames at a ready block is run one step each, in order. -/
theorem run_readyFor (Fs rest : List Frame) {s : State} (h : ReadyFor (Fs ++ rest) s) :
    ∃ t : State, Host.Core.run Sys2Proof.core Fs.length s = .next t ∧ ReadyFor rest t ∧
      viewOf t = Fs.foldl afterFrame (viewOf s) := by
  induction Fs generalizing s with
  | nil => exact ⟨s, rfl, h, rfl⟩
  | cons F Fs ih =>
    obtain ⟨u, hu, readyU, viewU⟩ := step_readyFor h
    obtain ⟨t, ht, readyT, viewT⟩ := ih readyU
    exact ⟨t, (run_succ Fs.length s u hu).trans ht, readyT, by rw [viewT, viewU, List.foldl_cons]⟩

/-! ### The view after the frames of `CALL` and `HASH` -/

theorem afterFrame_sha1Init (v : HostView) :
    afterFrame v [opcode .sha1 .init] = ⟨iv1, v.h2, v.responses ++ [[statusOk]]⟩ := rfl

theorem afterFrame_sha256Init (v : HostView) :
    afterFrame v [opcode .sha256 .init] = ⟨v.h1, iv2, v.responses ++ [[statusOk]]⟩ := rfl

theorem afterFrame_sha1Rdst (v : HostView) :
    afterFrame v [opcode .sha1 .rdst] = ⟨v.h1, v.h2, v.responses ++ [statusOk :: v.h1.toList.flatMap be32]⟩ := by
  rw [← rdstData_eq]; rfl

theorem afterFrame_sha256Rdst (v : HostView) :
    afterFrame v [opcode .sha256 .rdst] = ⟨v.h1, v.h2, v.responses ++ [statusOk :: v.h2.toList.flatMap be32]⟩ := by
  rw [← rdstData_eq]; rfl

theorem afterFrame_sha1Ldst (v : HostView) {S : List Word} (h : S.length = 5) :
    afterFrame v (opcode .sha1 .ldst :: S.flatMap be32) = ⟨loadFile 5 S, v.h2, v.responses ++ [[statusOk]]⟩ := by
  have decoded : decode (opcode .sha1 .ldst :: S.flatMap be32) = .ok (.sha1Ldst S) :=
    decode_encode (i := .sha1Ldst S) (beq_iff_eq.mpr h)
  simp [afterFrame_ok v decoded, file1After, file2After, answer, h]

theorem afterFrame_sha256Ldst (v : HostView) {S : List Word} (h : S.length = 8) :
    afterFrame v (opcode .sha256 .ldst :: S.flatMap be32) = ⟨v.h1, loadFile 8 S, v.responses ++ [[statusOk]]⟩ := by
  have decoded : decode (opcode .sha256 .ldst :: S.flatMap be32) = .ok (.sha256Ldst S) :=
    decode_encode (i := .sha256Ldst S) (beq_iff_eq.mpr h)
  simp [afterFrame_ok v decoded, file1After, file2After, answer, h]

/-- A `COMP` absorbs a payload of whole blocks and rejects any other whole (R123). -/
theorem afterFrame_sha1Comp (v : HostView) (P : List Byte) :
    afterFrame v (opcode .sha1 .comp :: P) =
      if P.length % 64 = 0 then ⟨sha1Compress v.h1 (compOperand P), v.h2, v.responses ++ [[statusOk]]⟩
      else { v with responses := v.responses ++ [[Error.invalidBlockLength.status]] } := by
  have decoded := decode_opcode .sha1 .comp P
  split
  · rw [afterFrame_ok v (decoded.trans (if_pos ‹_›))]
    simp [file1After, file2After, answer, compOperand_whole]
  · rw [afterFrame_rejected v (decoded.trans (if_neg ‹_›))]
    rfl

/-- The same on core SHA256 (R153). -/
theorem afterFrame_sha256Comp (v : HostView) (P : List Byte) :
    afterFrame v (opcode .sha256 .comp :: P) =
      if P.length % 64 = 0 then ⟨v.h1, sha256Compress v.h2 (compOperand P), v.responses ++ [[statusOk]]⟩
      else { v with responses := v.responses ++ [[Error.invalidBlockLength.status]] } := by
  have decoded := decode_opcode .sha256 .comp P
  split
  · rw [afterFrame_ok v (decoded.trans (if_pos ‹_›))]
    simp [file1After, file2After, answer, compOperand_whole]
  · rw [afterFrame_rejected v (decoded.trans (if_neg ‹_›))]
    rfl

/-- Once a first frame has set `H1` to `H`, a `COMP` of the payload `P` and an `RDST` answer the compression of `H`, or `H`
where the `COMP` is rejected; `H2` stands (R78). -/
theorem run_sha1_compress_read {F : Frame} {P : List Byte} {rest : List Frame} {s : State} {H : Vector Word 5}
    (h : ReadyFor ([F, opcode .sha1 .comp :: P, [opcode .sha1 .rdst]] ++ rest) s)
    (first : afterFrame (viewOf s) F = ⟨H, s.h2, s.responses ++ [[statusOk]]⟩) :
    ∃ t : State, Host.Core.run Sys2Proof.core 3 s = .next t ∧ t.port = rest ∧ t.h2 = s.h2 ∧
      (P.length % 64 = 0 →
        t.responses = s.responses ++ [[0x00], [0x00], 0x00 :: (sha1Compress H (compOperand P)).toList.flatMap be32]) ∧
      (P.length % 64 ≠ 0 → t.responses = s.responses ++ [[0x00], [0x01], 0x00 :: H.toList.flatMap be32]) := by
  obtain ⟨t, ran, ready, view⟩ := run_readyFor _ rest h
  simp only [List.foldl_cons, List.foldl_nil, first, afterFrame_sha1Comp, afterFrame_sha1Rdst] at view
  refine ⟨t, ran, ready.port, ?_, fun whole => ?_, fun broken => ?_⟩
  · refine (congrArg HostView.h2 view).trans ?_
    split <;> rfl
  · refine (congrArg HostView.responses view).trans ?_
    simp [whole, statusOk]
  · refine (congrArg HostView.responses view).trans ?_
    simp [broken, statusOk, Error.status]

/-- The same on core SHA256, where `H1` stands. -/
theorem run_sha256_compress_read {F : Frame} {P : List Byte} {rest : List Frame} {s : State} {H : Vector Word 8}
    (h : ReadyFor ([F, opcode .sha256 .comp :: P, [opcode .sha256 .rdst]] ++ rest) s)
    (first : afterFrame (viewOf s) F = ⟨s.h1, H, s.responses ++ [[statusOk]]⟩) :
    ∃ t : State, Host.Core.run Sys2Proof.core 3 s = .next t ∧ t.port = rest ∧ t.h1 = s.h1 ∧
      (P.length % 64 = 0 →
        t.responses = s.responses ++ [[0x00], [0x00], 0x00 :: (sha256Compress H (compOperand P)).toList.flatMap be32]) ∧
      (P.length % 64 ≠ 0 → t.responses = s.responses ++ [[0x00], [0x01], 0x00 :: H.toList.flatMap be32]) := by
  obtain ⟨t, ran, ready, view⟩ := run_readyFor _ rest h
  simp only [List.foldl_cons, List.foldl_nil, first, afterFrame_sha256Comp, afterFrame_sha256Rdst] at view
  refine ⟨t, ran, ready.port, ?_, fun whole => ?_, fun broken => ?_⟩
  · refine (congrArg HostView.h1 view).trans ?_
    split <;> rfl
  · refine (congrArg HostView.responses view).trans ?_
    simp [whole, statusOk]
  · refine (congrArg HostView.responses view).trans ?_
    simp [broken, statusOk, Error.status]

/-- Settles O54: `CALL` and `HASH` differ in their first frame alone, which sets the file to `S` or to the constants. -/
theorem pseudoCommandsAreTheSourcesCall : Obligations.PseudoCommandsAreTheSourcesCall := by
  refine ⟨fun S P => ⟨rfl, rfl, rfl, rfl⟩, fun s S P rest ready grain => ⟨?_, ?_, ?_, ?_⟩⟩
  · intro words port
    have called := run_sha1_compress_read ⟨ready, grain, port⟩ (afterFrame_sha1Ldst (viewOf s) words)
    rwa [loadFile_toList 5 S words] at called
  · intro words port
    have called := run_sha256_compress_read ⟨ready, grain, port⟩ (afterFrame_sha256Ldst (viewOf s) words)
    rwa [loadFile_toList 8 S words] at called
  · exact fun port => run_sha1_compress_read ⟨ready, grain, port⟩ (afterFrame_sha1Init _)
  · exact fun port => run_sha256_compress_read ⟨ready, grain, port⟩ (afterFrame_sha256Init _)

end Sys2Proof.Machine
end

section
/-! ### The textual form: letter case and raw frames (spec/30_encoding.md R76) -/

namespace Sys2Proof.Machine

/-! ### Letter case -/

/-- A line is read in lower case, so only its lower case form counts. -/
theorem lineFrames_congr_toLower {a b : List Char} (h : a.map Char.toLower = b.map Char.toLower) :
    lineFrames a = lineFrames b := by
  simp only [lineFrames, lineWords, h]

theorem lineFrames_toLower (line : List Char) : lineFrames (line.map Char.toLower) = lineFrames line :=
  lineFrames_congr_toLower (by simp)

theorem lineFrames_toUpper (line : List Char) : lineFrames (line.map Char.toUpper) = lineFrames line :=
  lineFrames_congr_toLower (by simp)

/-! ### Hexadecimal digits -/

theorem hexDigit_digitChar : ∀ n : Fin 16, hexDigit (digitChar n) = some n.val := by
  decide

theorem hexText_cons (b : Byte) (F : List Byte) :
    hexText (b :: F) = digitChar (b.toNat / 16) :: digitChar (b.toNat % 16) :: hexText F := rfl

/-- Both halves of a byte are hexadecimal digits. -/
theorem nibbles_lt (b : Byte) : b.toNat / 16 < 16 ∧ b.toNat % 16 < 16 := by
  have := b.isLt
  omega

/-- The digits of a byte string are read back as that string. -/
theorem hexBytes_hexText (F : List Byte) : hexBytes (hexText F) = some F := by
  induction F with
  | nil => rfl
  | cons b F ih =>
    have high := hexDigit_digitChar ⟨_, (nibbles_lt b).1⟩
    have low := hexDigit_digitChar ⟨_, (nibbles_lt b).2⟩
    have whole : BitVec.ofNat 8 (16 * (b.toNat / 16) + b.toNat % 16) = b := by
      rw [Nat.div_add_mod, BitVec.ofNat_toNat, BitVec.setWidth_eq]
    simp only [hexText_cons, hexBytes, high, low, ih, whole]

/-! ### The words of a line that stands as it is written -/

/-- A character that lower case, the cutting of comments and the splitting at commas leave alone. -/
def VerbatimChar (c : Char) : Prop :=
  c.toLower = c ∧ c ≠ ';' ∧ c ≠ ','

/-- A line of such characters is only split at its white space. -/
theorem lineWords_of_verbatim {cs : List Char} (h : ∀ c ∈ cs, VerbatimChar c) : lineWords cs = splitWords [] cs := by
  have lower : cs.map Char.toLower = cs := (List.map_congr_left fun c hc => (h c hc).1).trans (List.map_id cs)
  have noComment : cs.takeWhile (fun c => c != ';') = cs :=
    List.takeWhile_eq_self_iff.mpr fun c hc => bne_iff_ne.mpr (h c hc).2.1
  have noComma : (cs.flatMap fun c => if c = ',' then [' ', c, ' '] else [c]) = cs :=
    (List.flatMap_congr fun c hc => if_neg (h c hc).2.2).trans (List.flatMap_singleton' cs)
  rw [lineWords, lower, noComment, noComma]

/-- Characters without white space join the run being read. -/
theorem splitWords_append {cs : List Char} (h : ∀ c ∈ cs, c.isWhitespace = false) (word rest : List Char) :
    splitWords word (cs ++ rest) = splitWords (cs.reverse ++ word) rest := by
  induction cs generalizing word with
  | nil => rfl
  | cons c cs ih =>
    obtain ⟨hc, hcs⟩ := List.forall_mem_cons.mp h
    simp [splitWords, hc, ih hcs]

/-- Characters without white space are at most one word, which holds them all. -/
theorem splitWords_flatten {cs : List Char} (h : ∀ c ∈ cs, c.isWhitespace = false) : (splitWords [] cs).flatten = cs := by
  have run := splitWords_append h [] []
  rw [List.append_nil, List.append_nil] at run
  rw [run, splitWords]
  cases cs <;> simp

/-! ### A raw frame -/

theorem digitChar_verbatim (n : Fin 16) : VerbatimChar (digitChar n) ∧ (digitChar n).isWhitespace = false := by
  unfold VerbatimChar
  revert n
  decide

theorem hexText_verbatim (F : List Byte) : ∀ c ∈ hexText F, VerbatimChar c ∧ c.isWhitespace = false := by
  intro c hc
  obtain ⟨b, -, hd⟩ := List.mem_flatMap.mp hc
  obtain ⟨high, low⟩ := nibbles_lt b
  simp only [List.mem_cons, List.not_mem_nil, or_false] at hd
  rcases hd with rfl | rfl
  · exact digitChar_verbatim ⟨_, high⟩
  · exact digitChar_verbatim ⟨_, low⟩

/-- The name `.frame`, then the words of the digits. -/
theorem lineWords_frame (F : Frame) :
    lineWords (".frame ".toList ++ hexText F) = ".frame".toList :: splitWords [] (hexText F) := by
  have name : ∀ c ∈ ".frame ".toList, VerbatimChar c := by
    simp [VerbatimChar, Char.toLower]
  rw [lineWords_of_verbatim]
  · rfl
  · exact List.forall_mem_append.mpr ⟨name, fun c hc => (hexText_verbatim F c hc).1⟩

/-- Settles O56: a line is read in lower case, and the digits after `.frame` are one run, read back as the frame. -/
theorem textIsCaseBlindAndFramesAreLiteral : Obligations.TextIsCaseBlindAndFramesAreLiteral := by
  refine ⟨fun line => ⟨lineFrames_toLower line, lineFrames_toUpper line⟩, fun F => ?_⟩
  have digits : (splitWords [] (hexText F)).flatten = hexText F :=
    splitWords_flatten fun c hc => (hexText_verbatim F c hc).2
  simp only [lineFrames, lineWords_frame, if_true, digits, hexBytes_hexText, Option.map_some]

end Sys2Proof.Machine
end

section
/-! ### The word primitives as numbers and bit by bit (spec/40_primitives.md R86 to R90) -/

namespace Sys2Proof.Machine

/-! ### Addition modulo 2^32 (R86) -/

theorem toNat_sum (xs : List Word) : xs.sum.toNat = (xs.map BitVec.toNat).sum % 2 ^ 32 := by
  induction xs with
  | nil => rfl
  | cons x xs ih => rw [List.sum_cons, BitVec.toNat_add, ih, List.map_cons, List.sum_cons, Nat.add_mod_mod]

/-- Settles O9: summed from either end, a list of words has the sum of the commutative monoid of words. -/
theorem additionWraps : Obligations.AdditionWraps := by
  refine ⟨BitVec.toNat_add, fun xs ys perm => ?_⟩
  have fromLeft : xs.foldl add32 0 = xs.sum := List.sum_eq_foldl.symm
  have fromRight : ys.foldr add32 0 = ys.sum := rfl
  exact ⟨fromLeft ▸ toNat_sum xs, by rw [fromRight, fromLeft, perm.sum_eq]⟩

/-! ### The rotates and the shift (R88 to R90) -/

/-- The two terms of a rotate have no bit in common. -/
theorem shiftLeft_and_ushiftRight (x : Word) (n : Nat) : (x <<< n) &&& (x >>> (32 - n)) = 0 := by
  refine BitVec.eq_of_getLsbD_eq fun i _ => ?_
  rw [BitVec.getLsbD_and, BitVec.getLsbD_shiftLeft, BitVec.getLsbD_ushiftRight]
  rcases Nat.lt_or_ge i n with low | high
  · simp [low]
  · simp [BitVec.getLsbD_of_ge x (32 - n + i) (by omega)]

theorem rotl_eq_or (x : Word) (n : Nat) : rotl x n = (x <<< n) ||| (x >>> (32 - n)) :=
  BitVec.add_eq_or_of_and_eq_zero _ _ (shiftLeft_and_ushiftRight x n)

theorem rotl_toNat (x : Word) (n : Nat) :
    (rotl x n).toNat = x.toNat * 2 ^ n % 2 ^ 32 + x.toNat / 2 ^ (32 - n) := by
  rw [rotl, BitVec.toNat_add_of_and_eq_zero (shiftLeft_and_ushiftRight x n), BitVec.toNat_shiftLeft,
    BitVec.toNat_ushiftRight, Nat.shiftLeft_eq, Nat.shiftRight_eq_div_pow]

theorem getLsbD_rotl (x : Word) {n i : Nat} (hn : n ≤ 32) (hi : i < 32) :
    (rotl x n).getLsbD i = x.getLsbD ((i + 32 - n) % 32) := by
  rw [rotl_eq_or, BitVec.getLsbD_or, BitVec.getLsbD_shiftLeft, BitVec.getLsbD_ushiftRight]
  rcases Nat.lt_or_ge i n with low | high
  · have wrapped : (i + 32 - n) % 32 = 32 - n + i := by omega
    simp [low, wrapped]
  · have moved : (i + 32 - n) % 32 = i - n := by omega
    have outside : x.getLsbD (32 - n + i) = false := BitVec.getLsbD_of_ge _ _ (by omega)
    simp [hi, high, moved, outside]

theorem rotr_eq_rotl (x : Word) {n : Nat} (hn : n ≤ 32) : rotr x n = rotl x (32 - n) := by
  rw [rotr, rotl, Nat.sub_sub_self hn, BitVec.add_comm]

theorem rotr_toNat (x : Word) {n : Nat} (hn : n ≤ 32) :
    (rotr x n).toNat = x.toNat / 2 ^ n + x.toNat % 2 ^ n * 2 ^ (32 - n) := by
  have modulus : 2 ^ 32 = 2 ^ n * 2 ^ (32 - n) := (pow_mul_pow_sub 2 hn).symm
  rw [rotr_eq_rotl x hn, rotl_toNat, Nat.sub_sub_self hn, modulus, Nat.mul_mod_mul_right, Nat.add_comm]

theorem getLsbD_rotr (x : Word) {n i : Nat} (hn : n ≤ 32) (hi : i < 32) :
    (rotr x n).getLsbD i = x.getLsbD ((i + n) % 32) := by
  have distance : i + 32 - (32 - n) = i + n := by omega
  rw [rotr_eq_rotl x hn, getLsbD_rotl x (Nat.sub_le ..) hi, distance]

/-- Settles O10: a rotate is the sum of two terms without a common bit, so it is their `or`. -/
theorem rotatesMoveEveryBit : Obligations.RotatesMoveEveryBit :=
  fun x n _ hn => ⟨rotl_toNat x n, fun _ => getLsbD_rotl x hn.le, rotr_toNat x hn.le, fun _ => getLsbD_rotr x hn.le,
    rotr_eq_rotl x hn.le⟩

theorem getLsbD_shr (x : Word) (n i : Nat) : (shr x n).getLsbD i = (decide (i + n < 32) && x.getLsbD (i + n)) := by
  rw [shr, BitVec.getLsbD_ushiftRight, Nat.add_comm]
  rcases Nat.lt_or_ge (i + n) 32 with inside | past
  · simp [inside]
  · simp [BitVec.getLsbD_of_ge x _ past]

/-- Settles O11: the bits of the shift past the top of the word are 0. -/
theorem shiftIsFloorDivision : Obligations.ShiftIsFloorDivision := by
  intro x n _ _
  refine ⟨?_, fun i _ past => ?_⟩
  · rw [shr, BitVec.toNat_ushiftRight, Nat.shiftRight_eq_div_pow]
  · rw [getLsbD_shr, decide_eq_false past.not_gt, Bool.false_and]

end Sys2Proof.Machine
end

section
/-! ### The logical functions of both cores and their laws (spec/40_primitives.md R92 to R99, R101) -/

namespace Sys2Proof.Machine

/-! ### `Ch`, `Parity` and `Maj` (R92 to R95) -/

theorem getLsbD_ch (x y z : Word) (i : Nat) :
    (ch x y z).getLsbD i = if x.getLsbD i then y.getLsbD i else z.getLsbD i := by
  have choice : ∀ a b c : Bool, (c ^^ (a && (b ^^ c))) = if a then b else c := by decide
  simp only [ch, BitVec.getLsbD_xor, BitVec.getLsbD_and, choice]

theorem getLsbD_maj (x y z : Word) (i : Nat) :
    (maj x y z).getLsbD i = decide (2 ≤ (x.getLsbD i).toNat + (y.getLsbD i).toNat + (z.getLsbD i).toNat) := by
  have majority : ∀ a b c : Bool, (((a && b) ^^ (a && c)) ^^ (b && c)) = decide (2 ≤ a.toNat + b.toNat + c.toNat) := by
    decide
  simp only [maj, BitVec.getLsbD_xor, BitVec.getLsbD_and, majority]

/-- The form of `Ch` the source gives for SHA-256 (R92). -/
theorem ch_eq_select (x y z : Word) : ch x y z = (x &&& y) ^^^ (~~~x &&& z) := by
  refine BitVec.eq_of_getLsbD_eq fun i hi => ?_
  simp only [getLsbD_ch, BitVec.getLsbD_xor, BitVec.getLsbD_and, BitVec.getLsbD_not, hi]
  cases x.getLsbD i <;> simp

theorem ch_same (x y : Word) : ch x y y = y := by
  simp [ch]

theorem maj_swap_left (x y z : Word) : maj x y z = maj y x z := by
  rw [maj, maj, BitVec.and_comm x y, BitVec.xor_assoc, BitVec.xor_assoc, BitVec.xor_comm (x &&& z)]

theorem maj_swap_right (x y z : Word) : maj x y z = maj x z y := by
  rw [maj, maj, BitVec.and_comm y z, BitVec.xor_comm (x &&& y)]

theorem maj_same (x z : Word) : maj x x z = x := by
  rw [maj, BitVec.xor_assoc, BitVec.xor_self, BitVec.xor_zero, BitVec.and_self]

theorem parity_same (x z : Word) : parity x x z = z := by
  rw [parity, BitVec.xor_self, BitVec.zero_xor]

/-- Settles O12: `Ch` selects and `Maj` counts, bit by bit. -/
theorem roundFunctionsBitByBit : Obligations.RoundFunctionsBitByBit := by
  intro x y z i _
  refine ⟨getLsbD_ch x y z i, ch_eq_select x y z, ?_, getLsbD_maj x y z i, rfl, rfl, rfl, maj_swap_left x y z,
    maj_swap_right x y z⟩
  rw [parity, BitVec.getLsbD_xor, BitVec.getLsbD_xor]

/-- The round function and constant depend on the stage alone (R95). -/
theorem stage_congr {t u : Nat} (h : t / 20 = u / 20) (x y z : Word) :
    f1 t x y z = f1 u x y z ∧ stageConstant t = stageConstant u := by
  simp only [f1, stageConstant, h, and_self]

/-- Settles O14: every round has the function and constant of the first round of its stage. -/
theorem stageSelectsFunctionAndConstant : Obligations.StageSelectsFunctionAndConstant := by
  intro t x y z
  refine ⟨fun _ => ?_, fun _ _ => ?_, fun _ _ => ?_, fun _ _ => ?_⟩
  · exact stage_congr (u := 0) (by omega) x y z
  · exact stage_congr (u := 20) (by omega) x y z
  · exact stage_congr (u := 40) (by omega) x y z
  · exact stage_congr (u := 60) (by omega) x y z

/-! ### The four sigma functions (R96 to R99) -/

/-- Settles O13: each term of a sigma function moves the bits as its rotate or shift does. -/
theorem sigmaFunctionsBitByBit : Obligations.SigmaFunctionsBitByBit := by
  intro x i hi
  simp only [bigSigma0, bigSigma1, smallSigma0, smallSigma1, BitVec.getLsbD_xor, getLsbD_shr]
  refine ⟨?_, ?_, ?_, ?_⟩
  all_goals simp only [getLsbD_rotr, hi, Nat.reduceLeDiff]

/-! ### The laws of R101 -/

theorem rotl_rotr (x : Word) {n : Nat} (hn : n ≤ 32) : rotl (rotr x n) n = x := by
  refine BitVec.eq_of_getLsbD_eq fun i hi => ?_
  have back : ((i + 32 - n) % 32 + n) % 32 = i := by omega
  rw [getLsbD_rotl _ hn hi, getLsbD_rotr _ hn (Nat.mod_lt _ (by decide)), back]

theorem rotl_xor (x y : Word) {n : Nat} (hn : n ≤ 32) : rotl (x ^^^ y) n = rotl x n ^^^ rotl y n := by
  refine BitVec.eq_of_getLsbD_eq fun i hi => ?_
  simp only [BitVec.getLsbD_xor, getLsbD_rotl _ hn hi]

theorem rotr_xor (x y : Word) {n : Nat} (hn : n ≤ 32) : rotr (x ^^^ y) n = rotr x n ^^^ rotr y n := by
  simp only [rotr_eq_rotl _ hn, rotl_xor x y (Nat.sub_le 32 n)]

theorem shr_xor (x y : Word) (n : Nat) : shr (x ^^^ y) n = shr x n ^^^ shr y n :=
  BitVec.ushiftRight_xor_distrib x y n

/-- The `xor` of three terms that are each split in two, regrouped. -/
theorem xor_three_regroup (a b c a' b' c' : Word) :
    (a ^^^ a') ^^^ (b ^^^ b') ^^^ (c ^^^ c') = (a ^^^ b ^^^ c) ^^^ (a' ^^^ b' ^^^ c') := by
  ac_rfl

theorem bigSigma0_xor (x y : Word) : bigSigma0 (x ^^^ y) = bigSigma0 x ^^^ bigSigma0 y := by
  simp only [bigSigma0, rotr_xor, Nat.reduceLeDiff, xor_three_regroup]

theorem bigSigma1_xor (x y : Word) : bigSigma1 (x ^^^ y) = bigSigma1 x ^^^ bigSigma1 y := by
  simp only [bigSigma1, rotr_xor, Nat.reduceLeDiff, xor_three_regroup]

theorem smallSigma0_xor (x y : Word) : smallSigma0 (x ^^^ y) = smallSigma0 x ^^^ smallSigma0 y := by
  simp only [smallSigma0, rotr_xor, shr_xor, Nat.reduceLeDiff, xor_three_regroup]

theorem smallSigma1_xor (x y : Word) : smallSigma1 (x ^^^ y) = smallSigma1 x ^^^ smallSigma1 y := by
  simp only [smallSigma1, rotr_xor, shr_xor, Nat.reduceLeDiff, xor_three_regroup]

/-- Settles O15: each law by its lemma; `1 + 1` beside `0 + 1` shows that addition does not distribute over `xor`. -/
theorem lawsOfThePrimitives : Obligations.LawsOfThePrimitives := by
  refine ⟨fun x y z => ?_, fun x y n _ hn => ?_, fun x y z => ?_, fun x y => ?_, 1, 0, 1, by decide⟩
  · exact ⟨BitVec.add_zero x, BitVec.add_comm x y, BitVec.add_assoc x y z⟩
  · exact ⟨rotr_eq_rotl x hn.le, rotl_rotr x hn.le, rotl_xor x y hn.le, rotr_xor x y hn.le, shr_xor x y n⟩
  · exact ⟨ch_eq_select x y z, ch_same x y, maj_same x z, maj_swap_left x y z, maj_swap_right x y z, parity_same x z⟩
  · exact ⟨bigSigma0_xor x y, bigSigma1_xor x y, smallSigma0_xor x y, smallSigma1_xor x y⟩

end Sys2Proof.Machine
end

section
/-! ### Big-endian words in byte strings (spec/40_primitives.md R100) -/

namespace Sys2Proof.Machine

/-- The bytes of a word, read back as a word. -/
theorem fromBE32_bytes (x : Word) :
    fromBE32 (x.extractLsb' 24 8) (x.extractLsb' 16 8) (x.extractLsb' 8 8) (x.extractLsb' 0 8) = x :=
  (memReadWord_eq (be32 x) 0).symm.trans (memReadWord_be32 x [])

/-- A payload of one word, loaded and written out again. -/
theorem be32_fromBE32 (b0 b1 b2 b3 : Byte) : be32 (fromBE32 b0 b1 b2 b3) = [b0, b1, b2, b3] := by
  have oneWord : ldstOperand 1 [b0, b1, b2, b3] = [fromBE32 b0 b1 b2 b3] :=
    congrArg (· :: []) (memReadWord_eq [b0, b1, b2, b3] 0)
  have bytes := ldstOperand_inverse 1 [b0, b1, b2, b3] rfl
  rwa [oneWord, List.flatMap_singleton] at bytes

theorem ldstOperand_getElem? (P : List Byte) {n i : Nat} (hi : i < n) :
    (ldstOperand n P)[i]? = some (memReadWord P (4 * i)) := by
  simp [ldstOperand, hi]

/-- Settles O4: both round trips are those of a payload of one word, and every use of R100 is an equation for a read, a
block word or the data of `RDST`. -/
theorem bigEndianWordsRoundTrip : Obligations.BigEndianWordsRoundTrip := by
  refine ⟨fun _ => rfl, fun b0 b1 b2 b3 => ?_, fromBE32_bytes, be32_fromBE32, fun _ _ => rfl, fun P n i hi => ?_,
    rdstData_eq⟩
  · rw [fromBE32_toNat]
    omega
  · rw [ldstOperand_getElem? P hi, memReadWord_eq]

end Sys2Proof.Machine
end

section
/-! ### Schedule words computed just before their rounds (spec/41_sha1.md R127, spec/42_sha256.md R157) -/

namespace Sys2Proof.Machine

/-- A round that first computes its own schedule word, on the schedule array and the working variables of either core. -/
def onTheFly {n : Nat} {V : Type} (extend : Vector Word n → Nat → Vector Word n) (round : Vector Word n → V → Nat → V)
    (x : Vector Word n × V) (t : Nat) : Vector Word n × V :=
  let W := if 16 ≤ t then extend x.1 t else x.1
  (W, round W x.2 t)

/-- Before round `t` the variables are what rounds 0 to `t-1` made of `v` with the schedule `S`, and the array holds the
words of `S` known by then. -/
def BeforeRound {n : Nat} {V : Type} (round : Vector Word n → V → Nat → V) (S : Vector Word n) (v : V) (t : Nat)
    (x : Vector Word n × V) : Prop :=
  x.2 = (List.range t).foldl (round S) v ∧ ∀ i, i < max 16 t → readReg x.1 i = readReg S i

section
variable {n : Nat} {V : Type} {extend : Vector Word n → Nat → Vector Word n} {round : Vector Word n → V → Nat → V}
  {S : Vector Word n} {v : V}

theorem beforeRound_succ {t : Nat} {x : Vector Word n × V}
    (reads : ∀ W W' v t, readReg W t = readReg W' t → round W v t = round W' v t)
    (keeps : ∀ t W, t < n → (∀ i, i < max 16 t → readReg W i = readReg S i) →
      ∀ i, i < max 16 (t + 1) → readReg (if 16 ≤ t then extend W t else W) i = readReg S i)
    (ht : t < n) (h : BeforeRound round S v t x) : BeforeRound round S v (t + 1) (onTheFly extend round x t) := by
  obtain ⟨vars, words⟩ := h
  have next := keeps t x.1 ht words
  refine ⟨?_, next⟩
  rw [List.range_succ, List.foldl_append, ← vars]
  exact reads _ _ _ _ (next t (by omega))

end

theorem beforeRound1_succ {B : Block} {v : Work1} {t : Nat} {x : Vector Word 80 × Work1} (ht : t < 80)
    (h : BeforeRound round1 (schedule1 B) v t x) :
    BeforeRound round1 (schedule1 B) v (t + 1) (onTheFly extend1 round1 x t) :=
  beforeRound_succ (fun _ _ => round1_congr) (extend1_keeps_schedule B) ht h

theorem beforeRound2_succ {B : Block} {v : Work2} {t : Nat} {x : Vector Word 64 × Work2} (ht : t < 64)
    (h : BeforeRound round2 (schedule2 B) v t x) :
    BeforeRound round2 (schedule2 B) v (t + 1) (onTheFly extend2 round2 x t) :=
  beforeRound_succ (fun _ _ => round2_congr) (extend2_keeps_schedule B) ht h

theorem beforeRound1_load (B : Block) (v : Work1) (W : Vector Word 80) :
    BeforeRound round1 (schedule1 B) v 0 (decodeBlock1 B W, v) :=
  ⟨rfl, fun i hi => (decodeBlock1_read B W i hi).trans (schedule1_read_low B i hi).symm⟩

theorem beforeRound2_load (B : Block) (v : Work2) (W : Vector Word 64) :
    BeforeRound round2 (schedule2 B) v 0 (decodeBlock2 B W, v) :=
  ⟨rfl, fun i hi => (decodeBlock2_read B W i hi).trans (schedule2_read_low B i hi).symm⟩

end Sys2Proof.Machine
end

section
/-! ### Through every step the transients are those of the block being processed (R111 to R116, R141 to R146) -/

namespace Sys2Proof.Machine

@[simp] theorem currentBlock_roundSha1 (r : Nat) (s : State) : currentBlock (roundSha1 r s) = currentBlock s := rfl
@[simp] theorem currentBlock_roundSha256 (r : Nat) (s : State) : currentBlock (roundSha256 r s) = currentBlock s := rfl

theorem sha1AtRound_iff (s : State) (t : Nat) :
    Sha1AtRound s t ↔ BeforeRound round1 (schedule1 (currentBlock s)) (seed1 s.h1) t (s.w1, s.v1) :=
  Iff.rfl

theorem sha256AtRound_iff (s : State) (t : Nat) :
    Sha256AtRound s t ↔ BeforeRound round2 (schedule2 (currentBlock s)) (seed2 s.h2) t (s.w2, s.v2) :=
  Iff.rfl

theorem datapathCorrect_sha1_iff {s : State} (busy : s.busy = true) (alg : s.alg = .sha1) :
    DatapathCorrect s ↔ (∀ t, s.phase = .processingRound t → Sha1AtRound s t) ∧
      (s.phase = .blockComplete → Sha1AtRound s 80) := by
  simp [DatapathCorrect, busy, alg]

theorem datapathCorrect_sha256_iff {s : State} (busy : s.busy = true) (alg : s.alg = .sha256) :
    DatapathCorrect s ↔ (∀ t, s.phase = .processingRound t → Sha256AtRound s t) ∧
      (s.phase = .blockComplete → Sha256AtRound s 64) := by
  simp [DatapathCorrect, busy, alg]

/-- Between blocks nothing is claimed of the transients. -/
theorem datapathCorrect_of_awaiting {s : State} (phase : s.phase = .awaitingBlock) : DatapathCorrect s := by
  simp [DatapathCorrect, phase]

theorem datapathCorrect_of_idle {s : State} (idle : s.busy = false) : DatapathCorrect s := by
  simp [DatapathCorrect, idle]

theorem roundSha1_onTheFly (r : Nat) (s : State) :
    ((roundSha1 r s).w1, (roundSha1 r s).v1) = onTheFly extend1 round1 (s.w1, s.v1) r := rfl

theorem roundSha1_atRound {s : State} {r : Nat} (bound : r < 80) (h : Sha1AtRound s r) :
    Sha1AtRound (roundSha1 r s) (r + 1) := by
  rw [sha1AtRound_iff, roundSha1_onTheFly, currentBlock_roundSha1, roundSha1_h1]
  exact beforeRound1_succ bound h

theorem roundSha1_keeps_datapath {s : State} {r : Nat} (busy : s.busy = true) (alg : s.alg = .sha1) (bound : r < 80)
    (h : Sha1AtRound s r) : DatapathCorrect (roundSha1 r s) := by
  have next : Sha1AtRound (roundSha1 r s) (r + 1) := roundSha1_atRound bound h
  refine (datapathCorrect_sha1_iff (s := roundSha1 r s) busy alg).mpr ⟨fun q hq => ?_, fun complete => ?_⟩
  · rw [roundSha1_phase] at hq
    split at hq <;> cases hq
    exact next
  · obtain rfl : r = 79 := by
      rw [roundSha1_phase] at complete
      split at complete
      · cases complete
      · omega
    exact next

theorem roundSha256_onTheFly (r : Nat) (s : State) :
    ((roundSha256 r s).w2, (roundSha256 r s).v2) = onTheFly extend2 round2 (s.w2, s.v2) r := rfl

theorem roundSha256_atRound {s : State} {r : Nat} (bound : r < 64) (h : Sha256AtRound s r) :
    Sha256AtRound (roundSha256 r s) (r + 1) := by
  rw [sha256AtRound_iff, roundSha256_onTheFly, currentBlock_roundSha256, roundSha256_h2]
  exact beforeRound2_succ bound h

theorem roundSha256_keeps_datapath {s : State} {r : Nat} (busy : s.busy = true) (alg : s.alg = .sha256) (bound : r < 64)
    (h : Sha256AtRound s r) : DatapathCorrect (roundSha256 r s) := by
  have next : Sha256AtRound (roundSha256 r s) (r + 1) := roundSha256_atRound bound h
  refine (datapathCorrect_sha256_iff (s := roundSha256 r s) busy alg).mpr ⟨fun q hq => ?_, fun complete => ?_⟩
  · rw [roundSha256_phase] at hq
    split at hq <;> cases hq
    exact next
  · obtain rfl : r = 63 := by
      rw [roundSha256_phase] at complete
      split at complete
      · cases complete
      · omega
    exact next

/-- Each row of R119 and R149 keeps the transients right: LOAD decodes and seeds, ROUND goes one round on, and after FOLD and
DONE nothing is claimed of them. -/
theorem busyCase_keeps_datapath {s t : State} (busy : s.busy = true) (h : DatapathCorrect s) (hc : BusyCase s t) :
    DatapathCorrect t := by
  cases hc with
  | load1 alg phase more next =>
    subst next
    refine (datapathCorrect_sha1_iff (s := loadSha1 _ s) busy alg).mpr ⟨fun r hr => ?_, fun complete => by cases complete⟩
    cases hr
    exact beforeRound1_load _ _ _
  | load2 alg phase more next =>
    subst next
    refine (datapathCorrect_sha256_iff (s := loadSha256 _ s) busy alg).mpr ⟨fun r hr => ?_, fun complete => by cases complete⟩
    cases hr
    exact beforeRound2_load _ _ _
  | round1 r alg phase bound next =>
    subst next
    obtain ⟨working, -⟩ := (datapathCorrect_sha1_iff busy alg).mp h
    exact roundSha1_keeps_datapath busy alg bound (working r phase)
  | round2 r alg phase bound next =>
    subst next
    obtain ⟨working, -⟩ := (datapathCorrect_sha256_iff busy alg).mp h
    exact roundSha256_keeps_datapath busy alg bound (working r phase)
  | fold1 alg phase more next | fold2 alg phase more next => subst next; exact datapathCorrect_of_awaiting rfl
  | done phase last next => subst next; exact datapathCorrect_of_idle rfl

/-- Settles O47: the sequencer's rows keep the transients right, and every other outcome of a step leaves the block idle or
before its first block. -/
theorem stepsKeepTheDatapathCorrect : Obligations.StepsKeepTheDatapathCorrect := by
  intro s t _ correct h
  cases step_cases s with
  | reset due out => cases out.symm.trans h; exact datapathCorrect_of_idle rfl
  | busy notDue busy out =>
    exact busyCase_keeps_datapath (s := countDown s) busy correct (busyStep_cases (out.symm.trans h))
  | idle notDue idle port out => cases out.symm.trans h; exact correct
  | rejected F rest r notDue idle port decoded out => cases out.symm.trans h; exact correct
  | command F rest i notDue idle port decoded whole out =>
    obtain ⟨u, hu, -, -, -, -, keepsIdle, -, -⟩ := exec_answers i (takeFrame rest (countDown s))
    cases hu.symm.trans (out.symm.trans h)
    exact datapathCorrect_of_idle (keepsIdle idle)
  | start F rest i c Bs notDue idle port decoded grain comp out =>
    cases out.symm.trans h
    exact datapathCorrect_of_awaiting rfl

end Sys2Proof.Machine
end

section
/-! ### The block function by its recurrences (spec/41_sha1.md section 2) -/

namespace Sys2Proof.Machine

/-- Decode and schedule rules determine every word of the schedule (R111, R112). -/
theorem schedule1_unique {B : Block} {W : Nat → Word} (low : ∀ i, i < 16 → W i = blockWord B i)
    (high : ∀ t, 16 ≤ t → t < 80 → W t = rotl (W (t - 3) ^^^ W (t - 8) ^^^ W (t - 14) ^^^ W (t - 16)) 1) {t : Nat}
    (ht : t < 80) : W t = readReg (schedule1 B) t := by
  induction t using Nat.strongRecOn with
  | ind t ih =>
    by_cases hl : t < 16
    · rw [low t hl, schedule1_read_low B t hl]
    · have earlier : ∀ i, i < t → W i = readReg (schedule1 B) i := fun i hi => ih i hi (by omega)
      rw [high t (by omega) ht, schedule1_read_high B t (by omega) ht, earlier _ (by omega), earlier _ (by omega),
        earlier _ (by omega), earlier _ (by omega)]

/-- Seed and round rules determine the working variables before every round (R113 to R115). -/
theorem rounds1_unique {S : Vector Word 80} {v : Nat → Work1} (round : ∀ t, t < 80 → v (t + 1) = round1 S (v t) t)
    {t : Nat} (ht : t ≤ 80) : v t = rounds1 S (v 0) t := by
  induction t with
  | zero => rfl
  | succ t ih => rw [round t ht, ih (by omega), rounds1_succ]

/-- Settles O17: the rules leave one schedule and one sequence of variables, those the model computes. -/
theorem sha1BlockObeysTheRecurrences : Obligations.Sha1BlockObeysTheRecurrences := by
  intro H B W v decode schedule seed rounds
  have words (t : Nat) (ht : t < 80) : W t = readReg (schedule1 B) t := schedule1_unique decode schedule ht
  have vars : v 80 = rounds1 (schedule1 B) (v 0) 80 :=
    rounds1_unique (fun t ht => by rw [rounds t ht, words t ht]; rfl) (le_refl 80)
  have seeded : v 0 = seed1 H := seed
  calc sha1Block H B = fold1 H (rounds1 (schedule1 B) (v 0) 80) := by rw [seeded, sha1Block]
    _ = fold1 H (v 80) := by rw [vars]

end Sys2Proof.Machine
end

section
/-! ### The whole schedule first, or each word just before its round (R127, R157) -/

namespace Sys2Proof.Machine

section
variable {n : Nat} {V : Type} {round : Vector Word n → V → Nat → V} {S : Vector Word n} {v : V}

/-- Rounds that each go one round on, from the loaded block to the last. -/
theorem beforeRound_foldl {step : Vector Word n × V → Nat → Vector Word n × V} {x : Vector Word n × V}
    (load : BeforeRound round S v 0 x)
    (next : ∀ t x, t < n → BeforeRound round S v t x → BeforeRound round S v (t + 1) (step x t)) {t : Nat} (ht : t ≤ n) :
    BeforeRound round S v t ((List.range t).foldl step x) := by
  induction t with
  | zero => exact load
  | succ t ih =>
    rw [List.range_succ, List.foldl_append]
    exact next t _ ht (ih (by omega))

/-- After the last round the array is the schedule, word for word. -/
theorem eq_of_beforeRound_end {x : Vector Word n × V} (hn : 16 ≤ n) (h : BeforeRound round S v n x) :
    x = (S, (List.range n).foldl (round S) v) := by
  obtain ⟨vars, words⟩ := h
  exact Prod.ext (file_ext fun i hi => words i (by omega)) vars

end

theorem foldl_onTheFly1 (B : Block) (W : Vector Word 80) (v : Work1) :
    (List.range 80).foldl (onTheFly extend1 round1) (decodeBlock1 B W, v) = (schedule1 B, rounds1 (schedule1 B) v 80) :=
  eq_of_beforeRound_end (by omega)
    (beforeRound_foldl (beforeRound1_load B v W) (fun _ _ => beforeRound1_succ) le_rfl)

theorem foldl_onTheFly2 (B : Block) (W : Vector Word 64) (v : Work2) :
    (List.range 64).foldl (onTheFly extend2 round2) (decodeBlock2 B W, v) = (schedule2 B, rounds2 (schedule2 B) v 64) :=
  eq_of_beforeRound_end (by omega)
    (beforeRound_foldl (beforeRound2_load B v W) (fun _ _ => beforeRound2_succ) le_rfl)

/-- Settles O20: the words a recurrence names fix the word it computes, and so each word is that of the whole schedule. -/
theorem scheduleOnTheFlyIsTheSchedule : Obligations.ScheduleOnTheFlyIsTheSchedule := by
  refine ⟨fun W X t _ ht h16 h14 h8 h3 => ?_, fun W v B => foldl_onTheFly1 B W v, fun W X t low ht h => ?_,
    fun W v B => foldl_onTheFly2 B W v⟩
  · rw [extend1_read_same W t ht, extend1_read_same X t ht, h16, h14, h8, h3]
  · rw [extend2_read_same W t ht, extend2_read_same X t ht, h _ (by omega) (by omega), h _ (by omega) (by omega),
      h _ (by omega) (by omega), h _ (by omega) (by omega)]

end Sys2Proof.Machine
end

section
/-! ### Steps of a legal sequencer: they exist, they count down, and only FOLD moves a state file (R116, R119, R149, R174) -/

namespace Sys2Proof.Machine

/-- Settles O46: inside the ranges of R31 a row of the sequencer is enabled, and every command answers. -/
theorem legalStatesAlwaysStep : Obligations.LegalStatesAlwaysStep := by
  intro s legal
  unfold StepRuns
  cases step_cases s with
  | reset due out | idle notDue idle port out | rejected F rest r notDue idle port decoded out
  | start F rest i c Bs notDue idle port decoded grain comp out => exact ⟨_, out⟩
  | busy notDue busy out =>
    obtain ⟨-, index, more, bound⟩ := (sequencerLegal_busy_iff busy).mp legal
    rw [out]
    exact busyStep_answers (s := countDown s) index more bound
  | command F rest i notDue idle port decoded whole out =>
    obtain ⟨t, ht, -⟩ := exec_effect i (takeFrame rest (countDown s))
    exact ⟨t, out.trans ht⟩

/-- A busy block with no RESET due takes a row of R119 or R149. -/
theorem busyCase_of_step {s t : State} (busy : s.busy = true) (notDue : s.resets.head? ≠ some 0) (h : step s = .next t) :
    BusyCase (countDown s) t :=
  busyStep_cases ((step_eq_busyStep notDue busy).symm.trans h)

/-- Settles O48: of the rows of the sequencer only FOLD writes a state file, that of its own core. -/
theorem stateFilesMoveOnlyAtTheFold : Obligations.StateFilesMoveOnlyAtTheFold := by
  intro s t busy notDue h
  cases busyCase_of_step busy notDue h with
  | load1 alg phase more next | load2 alg phase more next | round1 r alg phase bound next | round2 r alg phase bound next
  | done phase last next =>
    subst next
    exact ⟨fun _ => ⟨rfl, rfl⟩, fun complete => by cases phase.symm.trans complete⟩
  | fold1 alg phase more next =>
    subst next
    exact ⟨fun elsewhere => absurd phase elsewhere, fun _ => ⟨rfl, rfl, fun _ => ⟨rfl, rfl⟩, fun other => by
      cases alg.symm.trans other⟩⟩
  | fold2 alg phase more next =>
    subst next
    exact ⟨fun elsewhere => absurd phase elsewhere, fun _ => ⟨rfl, rfl, fun other => (by cases alg.symm.trans other),
      fun _ => ⟨rfl, rfl⟩⟩⟩

end Sys2Proof.Machine
end

section
/-! ### The number of steps a command takes (R119, R128, R149, R158, R204) -/

namespace Sys2Proof.Machine

theorem stepsLeft_awaiting {s : State} (busy : s.busy = true) (phase : s.phase = .awaitingBlock) :
    stepsLeft s = (s.blocks.length - s.j) * (s.alg.nr + 2) + 1 := by
  simp [stepsLeft, busy, phase]

theorem stepsLeft_round {s : State} {t : Nat} (busy : s.busy = true) (phase : s.phase = .processingRound t) :
    stepsLeft s = s.alg.nr - t + 1 + (s.blocks.length - s.j - 1) * (s.alg.nr + 2) + 1 := by
  simp [stepsLeft, busy, phase]

theorem stepsLeft_complete {s : State} (busy : s.busy = true) (phase : s.phase = .blockComplete) :
    stepsLeft s = 1 + (s.blocks.length - s.j - 1) * (s.alg.nr + 2) + 1 := by
  simp [stepsLeft, busy, phase]

theorem stepsLeft_eq_zero_iff (s : State) : stepsLeft s = 0 ↔ s.busy = false := by
  cases busy : s.busy with
  | false => simp [stepsLeft, busy]
  | true =>
    cases phase : s.phase with
    | awaitingBlock => simp [stepsLeft_awaiting busy phase]
    | processingRound t => simp [stepsLeft_round busy phase]
    | blockComplete => simp [stepsLeft_complete busy phase]

/-! One row of the sequencer, from `s` to `t`, in the same command. -/

section
variable {s t : State} (busy : s.busy = true) (busy' : t.busy = true) (alg : t.alg = s.alg) (blocks : t.blocks = s.blocks)
include busy busy' alg blocks

theorem stepsLeft_load (j : t.j = s.j) (phase : s.phase = .awaitingBlock) (more : s.j < s.blocks.length)
    (phase' : t.phase = .processingRound 0) : stepsLeft s = stepsLeft t + 1 := by
  obtain ⟨k, hk⟩ : ∃ k, s.blocks.length - s.j = k + 1 := ⟨s.blocks.length - s.j - 1, by omega⟩
  rw [stepsLeft_awaiting busy phase, stepsLeft_round busy' phase', alg, blocks, j, hk, Nat.add_sub_cancel, Nat.succ_mul]
  omega

theorem stepsLeft_next_round {r : Nat} (j : t.j = s.j) (phase : s.phase = .processingRound r) (bound : r < s.alg.nr)
    (phase' : t.phase = if r < s.alg.nr - 1 then .processingRound (r + 1) else .blockComplete) :
    stepsLeft s = stepsLeft t + 1 := by
  rw [stepsLeft_round busy phase]
  split at phase'
  · rw [stepsLeft_round busy' phase', alg, blocks, j]; omega
  · rw [stepsLeft_complete busy' phase', alg, blocks, j]; omega

theorem stepsLeft_fold (j : t.j = s.j + 1) (phase : s.phase = .blockComplete) (phase' : t.phase = .awaitingBlock) :
    stepsLeft s = stepsLeft t + 1 := by
  rw [stepsLeft_complete busy phase, stepsLeft_awaiting busy' phase', alg, blocks, j, Nat.sub_sub]
  omega

end

/-- Each row of R119 and R149 brings the end of the command one step nearer. -/
theorem busyCase_stepsLeft {s t : State} (busy : s.busy = true) (hc : BusyCase s t) : stepsLeft s = stepsLeft t + 1 := by
  cases hc with
  | load1 alg phase more next | load2 alg phase more next =>
    subst next
    exact stepsLeft_load busy busy rfl rfl rfl phase more rfl
  | round1 r alg phase bound next | round2 r alg phase bound next =>
    subst next
    exact stepsLeft_next_round busy busy rfl rfl rfl phase (alg ▸ bound) (alg ▸ rfl)
  | fold1 alg phase more next | fold2 alg phase more next =>
    subst next
    exact stepsLeft_fold busy busy rfl rfl rfl phase rfl
  | done phase last next =>
    subst next
    rw [stepsLeft_awaiting busy phase, last, Nat.sub_self, Nat.zero_mul, (stepsLeft_eq_zero_iff _).mpr rfl]

theorem stepsLeft_startComp (c : Alg) (Bs : List Block) (s : State) :
    stepsLeft (startComp c Bs s) = (c.nr + 2) * Bs.length + 1 := by
  rw [stepsLeft_awaiting rfl rfl, Nat.mul_comm]; rfl

/-- Settles O49: row by row, from the count that START leaves to the idle block that DONE leaves. -/
theorem commandsEndInTheirStepCount : Obligations.CommandsEndInTheirStepCount := by
  refine ⟨fun s t _ busy notDue h => ?_, fun s Bs => ?_, stepsLeft_eq_zero_iff⟩
  · exact busyCase_stepsLeft (s := countDown s) busy (busyCase_of_step busy notDue h)
  · exact ⟨stepsLeft_startComp .sha1 Bs s, stepsLeft_startComp .sha256 Bs s⟩

end Sys2Proof.Machine
end

section
/-! ### From LOAD to FOLD: one block on the step machine (R117, R119, R120, R147, R149, R150) -/

namespace Sys2Proof.Machine

/-- A run longer by one last step. -/
theorem run_then {n : Nat} {s t u : State} (ran : Host.Core.run Sys2Proof.core n s = .next t) (last : step t = .next u) :
    Host.Core.run Sys2Proof.core (n + 1) s = .next u :=
  (run_add n 1 s t ran).trans (run_succ 0 t u last)

/-- With no RESET coming, a row whose condition holds is the step of a busy block. -/
theorem step_of_case {s t : State} (busy : s.busy = true) (resets : s.resets = []) (hc : BusyCase s t) : step s = .next t :=
  (step_busy busy resets).trans (busyStep_of_case hc)

/-- Where core SHA1 stands before round `n` of a block, or before its FOLD, with the schedule array and the variables `x`. -/
def working1 (s : State) (n : Nat) (x : Vector Word 80 × Work1) : State :=
  { s with w1 := x.1, v1 := x.2, phase := if n < 80 then .processingRound n else .blockComplete }

/-- Where core SHA256 stands before round `n` of a block, or before its FOLD. -/
def working2 (s : State) (n : Nat) (x : Vector Word 64 × Work2) : State :=
  { s with w2 := x.1, v2 := x.2, phase := if n < 64 then .processingRound n else .blockComplete }

theorem roundSha1_working1 (s : State) (n : Nat) (x : Vector Word 80 × Work1) :
    roundSha1 n (working1 s n x) = working1 s (n + 1) (onTheFly extend1 round1 x n) := by
  simp only [working1, Nat.lt_iff_add_one_le, Nat.reduceLeDiff, roundSha1, onTheFly]

theorem roundSha256_working2 (s : State) (n : Nat) (x : Vector Word 64 × Work2) :
    roundSha256 n (working2 s n x) = working2 s (n + 1) (onTheFly extend2 round2 x n) := by
  simp only [working2, Nat.lt_iff_add_one_le, Nat.reduceLeDiff, roundSha256, onTheFly]

/-- The state after a block of core SHA1 (R117, R119). -/
def afterBlock1 (s : State) : State :=
  leaveWork1 { s with h1 := sha1Block s.h1 (currentBlock s), j := s.j + 1, phase := .awaitingBlock }

/-- The state after a block of core SHA256 (R147, R149). -/
def afterBlock2 (s : State) : State :=
  leaveWork2 { s with h2 := sha256Block s.h2 (currentBlock s), j := s.j + 1, phase := .awaitingBlock }

section
variable {s : State} (busy : s.busy = true) (resets : s.resets = []) (more : s.j < s.blocks.length)
include busy resets more

/-- FOLD after the last round, whatever the rounds made. -/
theorem step_fold1 (alg : s.alg = .sha1) (S : Vector Word 80) (v : Work1) :
    step (working1 s 80 (S, v)) =
      .next (leaveWork1 { s with h1 := fold1 s.h1 v, j := s.j + 1, phase := .awaitingBlock }) :=
  step_of_case (s := working1 s 80 (S, v)) busy resets (.fold1 alg rfl more rfl)

theorem step_fold2 (alg : s.alg = .sha256) (S : Vector Word 64) (v : Work2) :
    step (working2 s 64 (S, v)) =
      .next (leaveWork2 { s with h2 := fold2 s.h2 v, j := s.j + 1, phase := .awaitingBlock }) :=
  step_of_case (s := working2 s 64 (S, v)) busy resets (.fold2 alg rfl more rfl)

variable (phase : s.phase = .awaitingBlock)
include phase

/-- LOAD and `n` rounds of core SHA1. -/
theorem run_rounds1 (alg : s.alg = .sha1) {n : Nat} (hn : n ≤ 80) :
    Host.Core.run Sys2Proof.core (n + 1) s = .next (working1 s n
      ((List.range n).foldl (onTheFly extend1 round1) (decodeBlock1 (currentBlock s) s.w1, seed1 s.h1))) := by
  induction n with
  | zero => exact run_then rfl (step_of_case busy resets (.load1 alg phase more rfl))
  | succ n ih =>
    refine run_then (ih (by omega)) ?_
    rw [List.range_succ, List.foldl_append]
    exact step_of_case busy resets (.round1 n alg (if_pos hn) hn (roundSha1_working1 s n _).symm)

/-- LOAD and `n` rounds of core SHA256. -/
theorem run_rounds2 (alg : s.alg = .sha256) {n : Nat} (hn : n ≤ 64) :
    Host.Core.run Sys2Proof.core (n + 1) s = .next (working2 s n
      ((List.range n).foldl (onTheFly extend2 round2) (decodeBlock2 (currentBlock s) s.w2, seed2 s.h2))) := by
  induction n with
  | zero => exact run_then rfl (step_of_case busy resets (.load2 alg phase more rfl))
  | succ n ih =>
    refine run_then (ih (by omega)) ?_
    rw [List.range_succ, List.foldl_append]
    exact step_of_case busy resets (.round2 n alg (if_pos hn) hn (roundSha256_working2 s n _).symm)

/-- LOAD, the 80 rounds and FOLD. -/
theorem run_block1 (alg : s.alg = .sha1) : Host.Core.run Sys2Proof.core 82 s = .next (afterBlock1 s) := by
  have rounds := run_rounds1 busy resets more phase alg (le_refl 80)
  rw [foldl_onTheFly1] at rounds
  exact run_then rounds (step_fold1 busy resets more alg _ _)

/-- LOAD, the 64 rounds and FOLD. -/
theorem run_block2 (alg : s.alg = .sha256) : Host.Core.run Sys2Proof.core 66 s = .next (afterBlock2 s) := by
  have rounds := run_rounds2 busy resets more phase alg (le_refl 64)
  rw [foldl_onTheFly2] at rounds
  exact run_then rounds (step_fold2 busy resets more alg _ _)

end

/-- Operations done in batches, each batch from where the one before it ended, are done in one row. -/
theorem foldl_batches {V : Type} (f : V → Nat → V) (v : V) (t : Nat) (batches : List Nat) :
    batches.foldl (fun (x : V × Nat) n => ((List.range' x.2 n).foldl f x.1, x.2 + n)) (v, t) =
      ((List.range' t batches.sum).foldl f v, t + batches.sum) := by
  induction batches generalizing v t with
  | nil => rfl
  | cons n batches ih =>
    rw [List.foldl_cons, ih, List.sum_cons, ← List.range'_append_1, List.foldl_append, Nat.add_assoc]

theorem wholeBlocks_of_append {As Bs : List Block} (h : wholeBlocks (As ++ Bs) = true) : wholeBlocks As = true := by
  rw [wholeBlocks, List.all_append, Bool.and_eq_true] at h
  exact h.1

/-- A frame whose block `j` is `B` is not at its end, and `B` is the block processed next. -/
theorem currentBlock_of_getElem? {s : State} {B : Block} (h : s.blocks[s.j]? = some B) :
    s.j < s.blocks.length ∧ currentBlock s = B := by
  obtain ⟨more, -⟩ := List.getElem?_eq_some_iff.mp h
  exact ⟨more, by simp [currentBlock, List.getD, h]⟩

/-- Settles O57: a block on the step machine ends in `afterBlock1` or `afterBlock2`, a whole command folds the block function
over its blocks, and batches of rounds are a row of rounds. -/
theorem eachBlockLeavesTheBlockFunction : Obligations.EachBlockLeavesTheBlockFunction := by
  refine ⟨fun s B busy resets phase block => ?_, fun s Bs B whole => ?_, fun W v batches => ?_, fun W v batches => ?_⟩
  · obtain ⟨more, rfl⟩ := currentBlock_of_getElem? block
    exact ⟨fun alg => ⟨_, run_block1 busy resets more phase alg, rfl, rfl, rfl, rfl, busy, rfl, rfl, rfl, rfl⟩,
      fun alg => ⟨_, run_block2 busy resets more phase alg, rfl, rfl, rfl, rfl, busy, rfl, rfl, rfl, rfl⟩⟩
  · have wholeBefore := wholeBlocks_of_append whole
    constructor
    · obtain ⟨t, ht, before⟩ := exec_effect (.sha1Comp Bs) s
      obtain ⟨u, hu, after⟩ := exec_effect (.sha1Comp (Bs ++ [B])) s
      refine ⟨t, u, ht, hu, ?_, before.h2, after.h2⟩
      simp only [before.h1, after.h1, file1After, whole, wholeBefore, if_true, sha1Compress_append]
      rfl
    · obtain ⟨t, ht, before⟩ := exec_effect (.sha256Comp Bs) s
      obtain ⟨u, hu, after⟩ := exec_effect (.sha256Comp (Bs ++ [B])) s
      refine ⟨t, u, ht, hu, ?_, before.h1, after.h1⟩
      simp only [before.h2, after.h2, file2After, whole, wholeBefore, if_true, sha256Compress_append]
      rfl
  · rw [foldl_batches, Nat.zero_add, rounds1, List.range_eq_range']
  · rw [foldl_batches, Nat.zero_add, rounds2, List.range_eq_range']

end Sys2Proof.Machine
end

section
/-! ### The step machine of core SHA1 from START to DONE is the command executed whole (R32, R33, R51, R119) -/

namespace Sys2Proof.Machine

/-! ### Nothing is sent before DONE -/

/-- A row that leaves the block busy sends nothing. -/
theorem busyCase_silent {s t : State} (hc : BusyCase s t) (busy : t.busy = true) :
    t.responses = s.responses ∧ t.resets = s.resets := by
  cases hc with
  | load1 alg phase more next | load2 alg phase more next | round1 r alg phase bound next | round2 r alg phase bound next
  | fold1 alg phase more next | fold2 alg phase more next => subst next; exact ⟨rfl, rfl⟩
  | done phase last next => subst next; cases busy

theorem busy_of_stepsLeft {s : State} (left : 0 < stepsLeft s) : s.busy = true :=
  Bool.eq_true_of_not_eq_false fun idle => left.ne' ((stepsLeft_eq_zero_iff s).mpr idle)

/-- A legal block with no RESET coming stays busy and silent for as long as steps are left. -/
theorem run_while_steps_left {s : State} {n : Nat} (legal : SequencerLegal s) (resets : s.resets = [])
    (left : n < stepsLeft s) :
    ∃ t : State, Host.Core.run Sys2Proof.core n s = .next t ∧ t.busy = true ∧ t.responses = s.responses := by
  have busy : s.busy = true := busy_of_stepsLeft (by omega)
  induction n generalizing s with
  | zero => exact ⟨s, rfl, busy, rfl⟩
  | succ n ih =>
    obtain ⟨t, ht⟩ := legalStatesAlwaysStep s legal
    have row : BusyCase s t := busyStep_cases ((step_busy busy resets).symm.trans ht)
    have count := busyCase_stepsLeft busy row
    have busyT : t.busy = true := busy_of_stepsLeft (by omega)
    obtain ⟨silent, same⟩ := busyCase_silent row busyT
    obtain ⟨u, hu, busyU, silentU⟩ :=
      ih (stepsKeepTheSequencerLegal s t legal ht) (same.trans resets) (by omega) busyT
    exact ⟨u, (run_succ n s t ht).trans hu, busyU, silentU.trans silent⟩

/-! ### The state after each block of the command -/

/-- The state after the first `n` blocks of a command of core SHA1. -/
def afterBlocks1 (n : Nat) (s : State) : State :=
  { leaveBlocks1 n s with h1 := sha1Compress s.h1 (s.blocks.take n), j := n, phase := .awaitingBlock }

theorem leaveBlocks1_succ (n : Nat) (s : State) : leaveBlocks1 (n + 1) s = leaveWork1 (leaveBlocks1 n s) := by
  cases n <;> rfl

theorem afterBlocks1_succ {n : Nat} {s : State} (h : n < s.blocks.length) :
    afterBlock1 (afterBlocks1 n s) = afterBlocks1 (n + 1) s := by
  have block : currentBlock (afterBlocks1 n s) = s.blocks[n] := by
    simp [currentBlock, afterBlocks1, List.getD, h]
  have compress : sha1Compress s.h1 (s.blocks.take (n + 1)) =
      sha1Block (sha1Compress s.h1 (s.blocks.take n)) s.blocks[n] := by
    rw [← List.take_concat_get' _ _ h, sha1Compress_append]; rfl
  rw [afterBlock1, block, afterBlocks1, afterBlocks1, leaveBlocks1_succ, compress]
  rfl

/-- START, and the first `n` blocks. -/
theorem run_blocks1 (Bs : List Block) {s : State} (resets : s.resets = []) {n : Nat} (hn : n ≤ Bs.length) :
    Host.Core.run Sys2Proof.core (82 * n) (startComp .sha1 Bs s) = .next (afterBlocks1 n (startComp .sha1 Bs s)) := by
  induction n with
  | zero => rfl
  | succ n ih =>
    rw [Nat.mul_succ, ← afterBlocks1_succ hn]
    refine (run_add (82 * n) 82 _ _ (ih (by omega))).trans (run_block1 ?_ ?_ ?_ rfl ?_) <;>
      simp [afterBlocks1, resets, Nat.lt_of_succ_le hn]

/-- From START to DONE. -/
theorem run_command1 (Bs : List Block) {s : State} (resets : s.resets = []) :
    Host.Core.run Sys2Proof.core (82 * Bs.length + 1) (startComp .sha1 Bs s) =
      .next (doneComp (afterBlocks1 Bs.length (startComp .sha1 Bs s))) := by
  refine run_then (run_blocks1 Bs resets (le_refl _)) (step_of_case ?_ ?_ (.done rfl ?_ rfl)) <;>
    simp [afterBlocks1, resets]

/-- The step machine ends in the state of the whole command: DONE leaves nothing of the sequencer's fields. -/
theorem doneComp_afterBlocks1 (Bs : List Block) (s : State) :
    doneComp (afterBlocks1 Bs.length (startComp .sha1 Bs s)) =
      doneComp { leaveBlocks1 Bs.length s with h1 := sha1Compress s.h1 Bs } := by
  rw [afterBlocks1, startComp_blocks, List.take_length]
  cases Bs.length <;> rfl

/-- Settles O50: START accepts the frame, then each block is a run from LOAD to FOLD, then DONE. -/
theorem sha1StepMachineIsTheCommand : Obligations.Sha1StepMachineIsTheCommand := by
  rintro s Bs rest ⟨idle, -, -, resets⟩ grain whole port
  have start : step s = .next (startComp .sha1 Bs (takeFrame rest s)) :=
    (step_idle idle resets port).trans (acceptFrame_start (decode_encode (i := .sha1Comp Bs) whole) grain rfl)
  refine ⟨?_, fun n hpos hn => ?_⟩
  · refine (run_succ _ s _ start).trans ((run_command1 Bs (s := takeFrame rest s) resets).trans ?_)
    rw [doneComp_afterBlocks1]
    exact (if_pos whole).symm
  · obtain ⟨m, rfl⟩ : ∃ m, n = m + 1 := ⟨n - 1, by omega⟩
    rw [run_succ _ s _ start]
    have left : m < stepsLeft (startComp .sha1 Bs (takeFrame rest s)) := by
      rw [stepsLeft_startComp]; exact Nat.lt_of_succ_lt_succ hn
    exact run_while_steps_left (startComp_legal _ whole) resets left

end Sys2Proof.Machine
end

section
/-! ### The four commands of core SHA1 (spec/41_sha1.md section 4), and `COMP` on either core (R125, R126, R155, R156) -/

namespace Sys2Proof.Machine

/-! ### Frames of a wrong length, and the frames of `COMP` -/

/-- A payload of a length R65 does not allow is rejected, with one response and nothing else changed. -/
theorem acceptFrame_wrong_length {c : Alg} {o : Op} {P : List Byte} (s : State) (h : ¬ LegalLength c o P.length) :
    acceptFrame (opcode c o :: P) s =
      .next { s with responses := s.responses ++ [[(errorOf (lengthRejection c o)).status]] } :=
  acceptFrame_rejected s ((decode_opcode c o P).trans (decodePayload_of_not_legal h))

theorem decode_sha1Comp {P : List Byte} (h : P.length % 64 = 0) : decode (0x12 :: P) = .ok (.sha1Comp (compOperand P)) :=
  (decode_opcode .sha1 .comp P).trans (if_pos h)

theorem decode_sha256Comp {P : List Byte} (h : P.length % 64 = 0) :
    decode (0x22 :: P) = .ok (.sha256Comp (compOperand P)) :=
  (decode_opcode .sha256 .comp P).trans (if_pos h)

/-- A `COMP` frame of whole blocks, run whole. -/
theorem acceptFrame_sha1Comp {P : List Byte} {s : State} (grain : s.grain = .command) (h : P.length % 64 = 0) :
    ∃ t, acceptFrame (0x12 :: P) s = .next t ∧ t.h1 = sha1Compress s.h1 (compOperand P) ∧ t.h2 = s.h2 ∧
      t.responses = s.responses ++ [[statusOk]] := by
  obtain ⟨t, ht, effect⟩ := exec_effect (.sha1Comp (compOperand P)) s
  refine ⟨t, (acceptFrame_command s (decode_sha1Comp h) (.inl grain)).trans ht, ?_, effect.h2, ?_⟩
  · rw [effect.h1, file1After, if_pos (compOperand_whole P)]
  · rw [effect.responses, answer, if_pos (compOperand_whole P)]

theorem acceptFrame_sha256Comp {P : List Byte} {s : State} (grain : s.grain = .command) (h : P.length % 64 = 0) :
    ∃ t, acceptFrame (0x22 :: P) s = .next t ∧ t.h2 = sha256Compress s.h2 (compOperand P) ∧ t.h1 = s.h1 ∧
      t.responses = s.responses ++ [[statusOk]] := by
  obtain ⟨t, ht, effect⟩ := exec_effect (.sha256Comp (compOperand P)) s
  refine ⟨t, (acceptFrame_command s (decode_sha256Comp h) (.inl grain)).trans ht, ?_, effect.h1, ?_⟩
  · rw [effect.h2, file2After, if_pos (compOperand_whole P)]
  · rw [effect.responses, answer, if_pos (compOperand_whole P)]

theorem length_append_whole {P Q : List Byte} (hP : P.length % 64 = 0) (hQ : Q.length % 64 = 0) :
    (P ++ Q).length % 64 = 0 := by
  rw [List.length_append]; omega

/-- Settles O29: the blocks of `P ++ Q` are those of `P`, then those of `Q`, and compression folds over them. -/
theorem splitPayloadsChain : Obligations.SplitPayloadsChain := by
  intro s P Q grain hP hQ
  have hPQ := length_append_whole hP hQ
  constructor
  · obtain ⟨t, ht, fileT, -, -⟩ := acceptFrame_sha1Comp grain hP
    obtain ⟨w, hw, fileW, -, -⟩ := acceptFrame_sha1Comp grain hPQ
    refine ⟨t, w, ht, hw, fun t' same grain' => ?_⟩
    obtain ⟨u, hu, fileU, -, -⟩ := acceptFrame_sha1Comp grain' hQ
    exact ⟨u, hu, by rw [fileU, same, fileT, fileW, compOperand_append P Q hP, sha1Compress_append]⟩
  · obtain ⟨t, ht, fileT, -, -⟩ := acceptFrame_sha256Comp grain hP
    obtain ⟨w, hw, fileW, -, -⟩ := acceptFrame_sha256Comp grain hPQ
    refine ⟨t, w, ht, hw, fun t' same grain' => ?_⟩
    obtain ⟨u, hu, fileU, -, -⟩ := acceptFrame_sha256Comp grain' hQ
    exact ⟨u, hu, by rw [fileU, same, fileT, fileW, compOperand_append P Q hP, sha256Compress_append]⟩

/-- Settles O30: an empty payload has no block, and compression by no block is the identity. -/
theorem emptyCompressIsTheIdentity : Obligations.EmptyCompressIsTheIdentity := by
  intro s grain
  obtain ⟨t, ht, file1, other1, response1⟩ := acceptFrame_sha1Comp (P := []) grain rfl
  obtain ⟨u, hu, file2, other2, response2⟩ := acceptFrame_sha256Comp (P := []) grain rfl
  exact ⟨⟨t, ht, file1, other1, response1⟩, u, hu, other2, file2, response2⟩

/-! ### Register files written out -/

theorem toList_five (H : Vector Word 5) : H.toList = [H[0], H[1], H[2], H[3], H[4]] :=
  List.ext_getElem (by simp) fun i _ h => by
    have : i < 5 := h
    interval_cases i <;> simp

theorem toList_eight (H : Vector Word 8) : H.toList = [H[0], H[1], H[2], H[3], H[4], H[5], H[6], H[7]] :=
  List.ext_getElem (by simp) fun i _ h => by
    have : i < 8 := h
    interval_cases i <;> simp

/-- Settles O19: word by word, and `add32` of words is addition modulo 2^32 of numbers. -/
theorem foldWrapsWordByWord : Obligations.FoldWrapsWordByWord := by
  refine ⟨fun H v => ?_, fun H v => ?_⟩
  · simp [toList_five, fold1, BitVec.toNat_add]
  · simp [toList_eight, fold2, BitVec.toNat_add]

/-! ### INIT, LDST, COMP and RDST -/

/-- Settles O21: INIT writes `iv1`; a payload makes the frame one of a wrong length. -/
theorem sha1InitLoadsTheInitialState : Obligations.Sha1InitLoadsTheInitialState :=
  fun s => ⟨rfl, acceptFrame_command s (decode_encode (i := .sha1Init) rfl) (.inr rfl), fun _ payload =>
    acceptFrame_wrong_length (c := .sha1) (o := .init) s fun empty => payload (List.eq_nil_of_length_eq_zero empty)⟩

theorem loadFile_ldstOperand (n : Nat) (P : List Byte) {i : Nat} (h : i < n) :
    (loadFile n (ldstOperand n P))[i] = memReadWord P (4 * i) := by
  simp [loadFile, ldstOperand]

theorem exec_sha1Ldst {S : List Word} (h : S.length = 5) (s : State) :
    exec (.sha1Ldst S) s = .next { s with h1 := loadFile 5 S, responses := s.responses ++ [[0x00]] } :=
  if_pos h

/-- Settles O22: the file loaded is the operand, word for word, and the operand is read from the payload. -/
theorem sha1LoadWritesTheWholeFile : Obligations.Sha1LoadWritesTheWholeFile := by
  refine fun s => ⟨fun S words => ?_, fun P bytes => ?_, fun S words => ?_, fun P bytes => ?_⟩
  · exact ⟨loadFile 5 S, loadFile_toList 5 S words, exec_sha1Ldst words s⟩
  · refine ⟨loadFile 5 (ldstOperand 5 P), fun i hi => loadFile_ldstOperand 5 P hi, ?_⟩
    exact (acceptFrame_command s (decode_sha1Ldst bytes) (.inr rfl)).trans (exec_sha1Ldst (ldstOperand_length 5 P) s)
  · exact acceptFrame_command s (decode_encode (i := .sha1Ldst S) (beq_iff_eq.mpr words)) (.inr rfl)
  · exact acceptFrame_wrong_length (c := .sha1) (o := .ldst) s bytes

/-- Settles O23: COMP ends in `doneComp` after the blocks, each of which leaves the other core and the port alone. -/
theorem sha1CompressAbsorbsTheBlocks : Obligations.Sha1CompressAbsorbsTheBlocks := by
  refine fun s => ⟨fun Bs whole => ⟨_, if_pos whole, ?_, ?_⟩, fun Bs whole grain => ?_, fun P bytes => ?_⟩
  · cases Bs <;> rfl
  · rintro rfl; rfl
  · exact acceptFrame_command s (decode_encode (i := .sha1Comp Bs) whole) (.inl grain)
  · exact acceptFrame_wrong_length (c := .sha1) (o := .comp) s bytes

/-- Settles O24: the data of RDST is the file's words, big-endian; a payload makes the frame one of a wrong length. -/
theorem sha1ReadReturnsTheWholeFile : Obligations.Sha1ReadReturnsTheWholeFile := by
  refine fun s => ⟨?_, acceptFrame_command s (decode_encode (i := .sha1Rdst) rfl) (.inr rfl), fun P payload => ?_⟩
  · have data : rdstData s.h1.toList = be32 s.h1[0] ++ be32 s.h1[1] ++ be32 s.h1[2] ++ be32 s.h1[3] ++ be32 s.h1[4] := by
      rw [rdstData_eq, toList_five]
      simp only [List.flatMap_cons, List.flatMap_nil, List.append_nil, List.append_assoc]
    rw [← data]; rfl
  · exact acceptFrame_wrong_length (c := .sha1) (o := .rdst) s fun empty => payload (List.eq_nil_of_length_eq_zero empty)

end Sys2Proof.Machine
end

section
/-! ### The rows of the step machine of core SHA1 (R119) -/

namespace Sys2Proof.Machine

/-- LOAD leaves the schedule words it does not decode. -/
theorem decodeBlock1_read_high (B : Block) (W : Vector Word 80) {i : Nat} (h : 16 ≤ i) :
    readReg (decodeBlock1 B W) i = readReg W i := by
  have decodes : ∀ is : List Nat, (∀ k ∈ is, k < 16) → ∀ X : Vector Word 80,
      readReg (is.foldl (fun X k => writeReg X k (blockWord B k)) X) i = readReg X i := by
    intro is
    induction is with
    | nil => exact fun _ _ => rfl
    | cons k is ih =>
      intro low X
      have hk : k < 16 := low k (by simp)
      rw [List.foldl_cons, ih (fun m hm => low m (by simp [hm])), readReg_writeReg_other _ _ _ _ (by omega)]
  exact decodes (List.range 16) (fun k hk => List.mem_range.mp hk) W

/-- Settles O43: each row is the step under its condition, and the fields it writes are those of its update. -/
theorem sha1StepMachineRows : Obligations.Sha1StepMachineRows := by
  refine fun s resets => ⟨fun P rest idle grain port whole => ?_, fun busy alg =>
    ⟨fun phase more => ?_, fun t phase bound => ?_, fun phase more => ?_, fun phase last => ?_⟩⟩
  · rw [step_idle idle resets port]
    exact acceptFrame_start (decode_sha1Comp whole) grain rfl
  · exact ⟨decodeBlock1 (s.blocks.getD s.j []) s.w1, step_of_case busy resets (.load1 alg phase more rfl),
      fun i hi => decodeBlock1_read _ _ i hi, fun i low _ => decodeBlock1_read_high _ _ low⟩
  · refine ⟨if 16 ≤ t then extend1 s.w1 t else s.w1, step_of_case busy resets (.round1 t alg phase bound rfl),
      fun i _ elsewhere => ?_, fun computed => ?_⟩
    · split
      · exact extend1_read_other s.w1 t i (by omega)
      · rfl
    · rw [if_pos computed, extend1_read_same s.w1 t bound]
  · exact ⟨_, step_of_case busy resets (.fold1 alg phase more rfl), rfl⟩
  · refine ⟨_, step_of_case busy resets (.done phase last rfl), ?_⟩
    rw [phase]; rfl

end Sys2Proof.Machine
end

section
/-! ### The block function of core SHA256 by its recurrences (spec/42_sha256.md section 2) -/

namespace Sys2Proof.Machine

/-- Decode and schedule rules determine every word of the schedule (R141, R142). -/
theorem schedule2_unique {B : Block} {W : Nat → Word} (low : ∀ i, i < 16 → W i = blockWord B i)
    (high : ∀ t, 16 ≤ t → t < 64 →
      W t = W (t - 16) + smallSigma0 (W (t - 15)) + W (t - 7) + smallSigma1 (W (t - 2))) {t : Nat} (ht : t < 64) :
    W t = readReg (schedule2 B) t := by
  induction t using Nat.strongRecOn with
  | ind t ih =>
    by_cases hl : t < 16
    · rw [low t hl, schedule2_read_low B t hl]
    · have earlier : ∀ i, i < t → W i = readReg (schedule2 B) i := fun i hi => ih i hi (by omega)
      rw [high t (by omega) ht, schedule2_read_high B t (by omega) ht, earlier (t - 16) (by omega),
        earlier (t - 15) (by omega), earlier (t - 7) (by omega), earlier (t - 2) (by omega)]

/-- Values that obey a recurrence from 0 to `n` end in its fold. -/
theorem eq_foldl_range {V : Type} {f : V → Nat → V} {v : Nat → V} {n : Nat} (next : ∀ t, t < n → v (t + 1) = f (v t) t) :
    v n = (List.range n).foldl f (v 0) := by
  induction n with
  | zero => rfl
  | succ n ih =>
    rw [List.range_succ, List.foldl_append, ← ih fun t ht => next t (by omega)]
    exact next n (by omega)

/-- Settles O18: the rules leave one schedule and one sequence of variables, those the model computes. -/
theorem sha256BlockObeysTheRecurrences : Obligations.Sha256BlockObeysTheRecurrences := by
  intro H B W v decode schedule seed rounds
  have words (t : Nat) (ht : t < 64) : W t = readReg (schedule2 B) t := schedule2_unique decode schedule ht
  have round (t : Nat) (ht : t < 64) : v (t + 1) = round2 (schedule2 B) (v t) t := by
    rw [rounds t ht _ _ rfl rfl, words t ht]; rfl
  have seeded : v 0 = seed2 H := seed
  calc sha256Block H B = fold2 H (rounds2 (schedule2 B) (v 0) 64) := by rw [seeded, sha256Block]
    _ = fold2 H (v 64) := by rw [rounds2, ← eq_foldl_range round]

end Sys2Proof.Machine
end

section
/-! ### The step machine of core SHA256 from START to DONE is the command executed whole (R32, R33, R51, R149) -/

namespace Sys2Proof.Machine

/-! ### Runs of equal parts, and the silence of a started command -/

/-- Parts of `k` steps each, from one of the states `after m` to the next. -/
theorem run_parts {after : Nat → State} {k n : Nat}
    (part : ∀ m, m < n → Host.Core.run Sys2Proof.core k (after m) = .next (after (m + 1))) :
    Host.Core.run Sys2Proof.core (k * n) (after 0) = .next (after n) := by
  induction n with
  | zero => rfl
  | succ n ih =>
    rw [Nat.mul_succ]
    exact (run_add (k * n) k _ _ (ih fun m hm => part m (by omega))).trans (part n (by omega))

/-- After START, and until the step before DONE, the block is busy and has sent nothing. -/
theorem started_busy_and_silent {c : Alg} {Bs : List Block} {s s' : State} (start : step s = .next (startComp c Bs s'))
    (whole : wholeBlocks Bs = true) (resets : s'.resets = []) {n : Nat} (started : 0 < n)
    (running : n < (c.nr + 2) * Bs.length + 2) :
    ∃ t : State, Host.Core.run Sys2Proof.core n s = .next t ∧ t.busy = true ∧ t.responses = s'.responses := by
  obtain ⟨m, rfl⟩ : ∃ m, n = m + 1 := ⟨n - 1, by omega⟩
  rw [run_succ m s _ start]
  have left : m < stepsLeft (startComp c Bs s') := by rw [stepsLeft_startComp]; omega
  exact run_while_steps_left (startComp_legal s' whole) resets left

/-! ### The state after each block of the command -/

/-- The state after the first `n` blocks of a command of core SHA256. -/
def afterBlocks2 (s : State) (n : Nat) : State :=
  { leaveBlocks2 n s with h2 := sha256Compress s.h2 (s.blocks.take n), j := n, phase := .awaitingBlock }

theorem leaveBlocks2_succ (n : Nat) (s : State) : leaveBlocks2 (n + 1) s = leaveWork2 (leaveBlocks2 n s) := by
  cases n <;> rfl

theorem afterBlocks2_succ {n : Nat} {s : State} (h : n < s.blocks.length) :
    afterBlock2 (afterBlocks2 s n) = afterBlocks2 s (n + 1) := by
  have block : currentBlock (afterBlocks2 s n) = s.blocks[n] := by
    simp [currentBlock, afterBlocks2, List.getD, h]
  have compress : sha256Compress s.h2 (s.blocks.take (n + 1)) =
      sha256Block (sha256Compress s.h2 (s.blocks.take n)) s.blocks[n] := by
    rw [← List.take_concat_get' _ _ h, sha256Compress_append]; rfl
  rw [afterBlock2, block, afterBlocks2, afterBlocks2, leaveBlocks2_succ, compress]
  rfl

section
variable (Bs : List Block) {s : State} (resets : s.resets = [])
include resets

/-- From LOAD to FOLD of block `n`. -/
theorem run_block2_of_command {n : Nat} (hn : n < Bs.length) :
    Host.Core.run Sys2Proof.core 66 (afterBlocks2 (startComp .sha256 Bs s) n) =
      .next (afterBlocks2 (startComp .sha256 Bs s) (n + 1)) := by
  rw [← afterBlocks2_succ hn]
  refine run_block2 ?_ ?_ ?_ rfl ?_ <;> simp [afterBlocks2, resets, hn]

/-- From the state START leaves to the state DONE leaves. -/
theorem run_command2 :
    Host.Core.run Sys2Proof.core (66 * Bs.length + 1) (startComp .sha256 Bs s) =
      .next (doneComp (afterBlocks2 (startComp .sha256 Bs s) Bs.length)) := by
  have blocks := run_parts (after := afterBlocks2 (startComp .sha256 Bs s)) fun _ => run_block2_of_command Bs resets
  refine run_then blocks (step_of_case ?_ ?_ (.done rfl ?_ rfl)) <;> simp [afterBlocks2, resets]

end

/-- The step machine ends in the state of the whole command: DONE leaves nothing of the sequencer's fields. -/
theorem doneComp_afterBlocks2 (Bs : List Block) (s : State) :
    doneComp (afterBlocks2 (startComp .sha256 Bs s) Bs.length) =
      doneComp { leaveBlocks2 Bs.length s with h2 := sha256Compress s.h2 Bs } := by
  rw [afterBlocks2, startComp_blocks, List.take_length]
  cases Bs.length <;> rfl

/-- Settles O51: START accepts the frame, then each block is a run from LOAD to FOLD, then DONE. -/
theorem sha256StepMachineIsTheCommand : Obligations.Sha256StepMachineIsTheCommand := by
  rintro s Bs rest ⟨idle, -, -, resets⟩ grain whole port
  have start : step s = .next (startComp .sha256 Bs (takeFrame rest s)) :=
    (step_idle idle resets port).trans (acceptFrame_start (decode_encode (i := .sha256Comp Bs) whole) grain rfl)
  constructor
  · rw [run_succ _ s _ start, run_command2 Bs (s := takeFrame rest s) resets, doneComp_afterBlocks2]
    exact (if_pos whole).symm
  · exact fun n started running => started_busy_and_silent start whole resets started running

end Sys2Proof.Machine
end

section
/-! ### The four commands of core SHA256 (spec/42_sha256.md section 6) -/

namespace Sys2Proof.Machine

/-- Settles O25: INIT writes `iv2`; a payload makes the frame one of a wrong length. -/
theorem sha256InitLoadsTheInitialState : Obligations.Sha256InitLoadsTheInitialState := by
  refine fun s => ⟨rfl, ?_, fun P payload => ?_⟩
  · exact acceptFrame_command s (decode_encode (i := .sha256Init) rfl) (.inr rfl)
  · exact acceptFrame_wrong_length (c := .sha256) (o := .init) s (mt List.eq_nil_of_length_eq_zero payload)

theorem exec_sha256Ldst {S : List Word} (h : S.length = 8) (s : State) :
    exec (.sha256Ldst S) s = .next { s with h2 := loadFile 8 S, responses := s.responses ++ [[0x00]] } :=
  if_pos h

/-- Settles O26: the file loaded is the operand, word for word, and the operand is read from the payload. -/
theorem sha256LoadWritesTheWholeFile : Obligations.Sha256LoadWritesTheWholeFile := by
  refine fun s => ⟨fun S words => ?_, fun P bytes => ?_, fun S words => ?_, fun P bytes => ?_⟩
  · exact ⟨loadFile 8 S, loadFile_toList 8 S words, exec_sha256Ldst words s⟩
  · refine ⟨loadFile 8 (ldstOperand 8 P), fun i hi => loadFile_ldstOperand 8 P hi, ?_⟩
    exact (acceptFrame_command s (decode_sha256Ldst bytes) (.inr rfl)).trans (exec_sha256Ldst (ldstOperand_length 8 P) s)
  · exact acceptFrame_command s (decode_encode (i := .sha256Ldst S) (beq_iff_eq.mpr words)) (.inr rfl)
  · exact acceptFrame_wrong_length (c := .sha256) (o := .ldst) s bytes

/-- Settles O27: COMP ends in `doneComp` after the blocks, each of which leaves the other core and the port alone. -/
theorem sha256CompressAbsorbsTheBlocks : Obligations.Sha256CompressAbsorbsTheBlocks := by
  refine fun s => ⟨fun Bs whole => ⟨_, if_pos whole, ?_, ?_⟩, fun Bs whole grain => ?_, fun P bytes => ?_⟩
  · cases Bs <;> rfl
  · rintro rfl; rfl
  · exact acceptFrame_command s (decode_encode (i := .sha256Comp Bs) whole) (.inl grain)
  · exact acceptFrame_wrong_length (c := .sha256) (o := .comp) s bytes

/-- Settles O28: the data of RDST is the file's words, big-endian; a payload makes the frame one of a wrong length. -/
theorem sha256ReadReturnsTheWholeFile : Obligations.Sha256ReadReturnsTheWholeFile := by
  refine fun s => ⟨?_, acceptFrame_command s (decode_encode (i := .sha256Rdst) rfl) (.inr rfl), fun P payload => ?_⟩
  · have data : rdstData s.h2.toList = be32 s.h2[0] ++ be32 s.h2[1] ++ be32 s.h2[2] ++ be32 s.h2[3] ++
        be32 s.h2[4] ++ be32 s.h2[5] ++ be32 s.h2[6] ++ be32 s.h2[7] := by
      rw [rdstData_eq, toList_eight]
      simp only [List.flatMap_cons, List.flatMap_nil, List.append_nil, List.append_assoc]
    rw [← data]; rfl
  · exact acceptFrame_wrong_length (c := .sha256) (o := .rdst) s (mt List.eq_nil_of_length_eq_zero payload)

end Sys2Proof.Machine
end

section
/-! ### The rows of the step machine of core SHA256 (R149) -/

namespace Sys2Proof.Machine

theorem readReg_foldl_writeReg_other {n : Nat} (f : Nat → Word) {is : List Nat} {i : Nat} (h : i ∉ is) (W : Vector Word n) :
    readReg (is.foldl (fun W k => writeReg W k (f k)) W) i = readReg W i := by
  induction is generalizing W with
  | nil => rfl
  | cons k is ih =>
    obtain ⟨first, others⟩ := not_or.mp (List.mem_cons.not.mp h)
    rw [List.foldl_cons, ih others, readReg_writeReg_other _ _ _ _ (Ne.symm first)]

/-- LOAD leaves the schedule words it does not decode. -/
theorem decodeBlock2_read_high (B : Block) (W : Vector Word 64) {i : Nat} (h : 16 ≤ i) :
    readReg (decodeBlock2 B W) i = readReg W i :=
  readReg_foldl_writeReg_other (blockWord B) (by simpa using h) W

/-- Settles O44: each row is the step under its condition, and the fields it writes are those of its update. -/
theorem sha256StepMachineRows : Obligations.Sha256StepMachineRows := by
  refine fun s resets => ⟨fun P rest idle grain port whole => ?_, fun busy alg =>
    ⟨fun phase more => ?load, fun t phase bound => ?round, fun phase more => ?fold, fun phase last => ?done⟩⟩
  · rw [step_idle idle resets port]
    exact acceptFrame_start (decode_sha256Comp whole) grain rfl
  case load =>
    exact ⟨decodeBlock2 (s.blocks.getD s.j []) s.w2, step_of_case busy resets (.load2 alg phase more rfl),
      fun i hi => decodeBlock2_read _ _ i hi, fun i low _ => decodeBlock2_read_high _ _ low⟩
  case round =>
    refine ⟨if 16 ≤ t then extend2 s.w2 t else s.w2, step_of_case busy resets (.round2 t alg phase bound rfl),
      fun i _ elsewhere => ?_, fun computed => ?_⟩
    · split
      · exact extend2_read_other s.w2 t i (by omega)
      · rfl
    · rw [if_pos computed, extend2_read_same s.w2 t bound]
  case fold => exact ⟨_, step_of_case busy resets (.fold2 alg phase more rfl), rfl⟩
  case done =>
    refine ⟨_, step_of_case busy resets (.done phase last rfl), ?_⟩
    rw [phase]; rfl

end Sys2Proof.Machine
end

section
/-! ### The course of a step depends on shapes alone (R32, R87, R185) -/

namespace Sys2Proof.Machine

/-- Whatever next state the first outcome is, the second is one that agrees with it on the course. -/
def OutcomesAgree (o p : Host.Outcome State Fault Refusal) : Prop :=
  ∀ s, o = .next s → ∃ t, p = .next t ∧ ControlAgree s t

theorem outcomesAgree_next {s t : State} (h : ControlAgree s t) : OutcomesAgree (.next s) (.next t) := by
  rintro _ ⟨⟩
  exact ⟨t, rfl, h⟩

/-! ### The updates of a step keep two states in agreement -/

section
variable {s t : State}

theorem controlAgree_countDown (h : ControlAgree s t) : ControlAgree (countDown s) (countDown t) := by
  obtain ⟨busy, alg, phase, j, blocks, resets, others⟩ := h
  exact ⟨busy, alg, phase, j, blocks, by simp [resets], others⟩

theorem controlAgree_takeFrame {rest rest' : List Frame} (shapes : List.Forall₂ SameShape rest rest')
    (h : ControlAgree s t) : ControlAgree (takeFrame rest s) (takeFrame rest' t) := by
  obtain ⟨busy, alg, phase, j, blocks, resets, grain, draws, -, responses⟩ := h
  exact ⟨busy, alg, phase, j, blocks, resets, grain, draws, shapes, responses⟩

theorem controlAgree_respond {R Q : Frame} (length : R.length = Q.length) (h : ControlAgree s t) :
    ControlAgree (respond R s) (respond Q t) := by
  obtain ⟨busy, alg, phase, j, blocks, resets, grain, draws, port, responses⟩ := h
  exact ⟨busy, alg, phase, j, blocks, resets, grain, draws, port, List.rel_append responses (.cons length .nil)⟩

theorem controlAgree_startComp (c : Alg) {Bs Cs : List Block} (number : Bs.length = Cs.length) (h : ControlAgree s t) :
    ControlAgree (startComp c Bs s) (startComp c Cs t) := by
  obtain ⟨-, -, -, -, -, others⟩ := h
  exact ⟨rfl, rfl, rfl, rfl, number, others⟩

/-- DONE draws `alg` and `j` anew, and equal draws give equal free values (notes/assumptions/3.md). -/
theorem controlAgree_doneComp (h : ControlAgree s t) : ControlAgree (doneComp s) (doneComp t) := by
  refine controlAgree_respond rfl ?_
  obtain ⟨-, -, -, -, -, resets, grain, draws, port, responses⟩ := h
  exact ⟨rfl, congrArg Config.freeAlg draws, rfl, congrArg Config.freeIndex draws, rfl, resets, grain,
    congrArg (· + 1) draws, port, responses⟩

/-- RESET draws `alg` and `j` anew as DONE does (R196, R197). -/
theorem controlAgree_takeReset (h : ControlAgree s t) : ControlAgree (takeReset s) (takeReset t) := by
  obtain ⟨-, -, -, -, -, resets, grain, draws, port, responses⟩ := h
  exact ⟨rfl, congrArg Config.freeAlg draws, rfl, congrArg Config.freeIndex draws, rfl, congrArg List.tail resets, grain,
    congrArg (· + 1) draws, port, responses⟩

theorem controlAgree_leaveBlocks1 (n : Nat) (h : ControlAgree s t) : ControlAgree (leaveBlocks1 n s) (leaveBlocks1 n t) := by
  simpa [ControlAgree] using h

theorem controlAgree_leaveBlocks2 (n : Nat) (h : ControlAgree s t) : ControlAgree (leaveBlocks2 n s) (leaveBlocks2 n t) := by
  simpa [ControlAgree] using h

/-! ### The sequencer -/

/-- Each row of R119 and R149 is enabled by the sequencer and the number of blocks, and moves the sequencer by them. -/
theorem busyCase_controlAgree {s' : State} (h : ControlAgree s t) (hc : BusyCase s s') :
    ∃ t', BusyCase t t' ∧ ControlAgree s' t' := by
  have ⟨hbusy, halg, hphase, hj, hblocks, resets, grain, draws, frames⟩ := h
  have folded : s.j + 1 = t.j + 1 := congrArg (· + 1) hj
  have drawn : s.draws + 1 = t.draws + 1 := congrArg (· + 1) draws
  cases hc with
  | load1 alg phase more next =>
    subst next
    exact ⟨_, .load1 (halg ▸ alg) (hphase ▸ phase) (hj ▸ hblocks ▸ more) rfl, hbusy, halg, rfl, hj, hblocks, resets,
      grain, draws, frames⟩
  | load2 alg phase more next =>
    subst next
    exact ⟨_, .load2 (halg ▸ alg) (hphase ▸ phase) (hj ▸ hblocks ▸ more) rfl, hbusy, halg, rfl, hj, hblocks, resets,
      grain, draws, frames⟩
  | round1 r alg phase bound next =>
    subst next
    exact ⟨_, .round1 r (halg ▸ alg) (hphase ▸ phase) bound rfl, hbusy, halg, rfl, hj, hblocks, resets,
      grain, draws, frames⟩
  | round2 r alg phase bound next =>
    subst next
    exact ⟨_, .round2 r (halg ▸ alg) (hphase ▸ phase) bound rfl, hbusy, halg, rfl, hj, hblocks, resets,
      grain, draws, frames⟩
  | fold1 alg phase more next =>
    subst next
    exact ⟨_, .fold1 (halg ▸ alg) (hphase ▸ phase) (hj ▸ hblocks ▸ more) rfl, hbusy, halg, rfl, folded, hblocks, resets,
      grain, drawn, frames⟩
  | fold2 alg phase more next =>
    subst next
    exact ⟨_, .fold2 (halg ▸ alg) (hphase ▸ phase) (hj ▸ hblocks ▸ more) rfl, hbusy, halg, rfl, folded, hblocks, resets,
      grain, drawn, frames⟩
  | done phase last next =>
    subst next
    exact ⟨_, .done (hphase ▸ phase) (hj ▸ hblocks ▸ last) rfl, controlAgree_doneComp h⟩

theorem busyStep_outcomesAgree (h : ControlAgree s t) : OutcomesAgree (busyStep s) (busyStep t) := by
  intro s' hs
  obtain ⟨t', hc, agree⟩ := busyCase_controlAgree h (busyStep_cases hs)
  exact ⟨t', busyStep_of_case hc, agree⟩

/-! ### A command run whole -/

@[simp] theorem compOf_commandOf_comp (c : Alg) (P : List Byte) :
    compOf (commandOf c .comp P) = some (c, compOperand P) := by
  cases c <;> rfl

theorem compOf_commandOf_of_not_comp {c : Alg} {o : Op} (h : o ≠ .comp) (P : List Byte) :
    compOf (commandOf c o P) = none := by
  cases o with
  | init | ldst | rdst => cases c <;> rfl
  | comp => exact absurd rfl h

@[simp] theorem op_commandOf (c : Alg) (o : Op) (P : List Byte) : (commandOf c o P).op = o := by
  cases c <;> cases o <;> rfl

theorem compOperand_length (P : List Byte) : (compOperand P).length = P.length / 64 := by
  simp [compOperand]

/-- The length of the answer to a command the decoder reads is its operation's and its core's alone (R71, R72). -/
theorem answer_commandOf_length (c : Alg) (o : Op) (P : List Byte) (H1 : Vector Word 5) (H2 : Vector Word 8) :
    (answer (commandOf c o P) H1 H2).length = if o = .rdst then 4 * c.nw + 1 else 1 := by
  cases o with
  | init => cases c <;> rfl
  | ldst => cases c <;> simp [commandOf, answer, Alg.nw]
  | comp => cases c <;> simp [commandOf, answer, compOperand_whole]
  | rdst => cases c <;> simp [commandOf, answer, rdstData_length, Alg.nw]

theorem exec_commandOf_sha1Comp (P : List Byte) (s : State) : exec (commandOf .sha1 .comp P) s =
    .next (doneComp { leaveBlocks1 (compOperand P).length s with h1 := sha1Compress s.h1 (compOperand P) }) :=
  if_pos (compOperand_whole P)

theorem exec_commandOf_sha256Comp (P : List Byte) (s : State) : exec (commandOf .sha256 .comp P) s =
    .next (doneComp { leaveBlocks2 (compOperand P).length s with h2 := sha256Compress s.h2 (compOperand P) }) :=
  if_pos (compOperand_whole P)

theorem exec_comp_outcomesAgree (c : Alg) {P Q : List Byte} (number : (compOperand P).length = (compOperand Q).length)
    (h : ControlAgree s t) : OutcomesAgree (exec (commandOf c .comp P) s) (exec (commandOf c .comp Q) t) := by
  cases c with
  | sha1 =>
    rw [exec_commandOf_sha1Comp, exec_commandOf_sha1Comp, ← number]
    have blocks := controlAgree_leaveBlocks1 (compOperand P).length h
    exact outcomesAgree_next (controlAgree_doneComp blocks)
  | sha256 =>
    rw [exec_commandOf_sha256Comp, exec_commandOf_sha256Comp, ← number]
    have blocks := controlAgree_leaveBlocks2 (compOperand P).length h
    exact outcomesAgree_next (controlAgree_doneComp blocks)

/-- A command other than `COMP` shows its operand and the state files in the bytes of one response alone. -/
theorem exec_not_comp_outcomesAgree {c : Alg} {o : Op} (notComp : o ≠ .comp) (P Q : List Byte) (h : ControlAgree s t) :
    OutcomesAgree (exec (commandOf c o P) s) (exec (commandOf c o Q) t) := by
  rw [exec_eq_of_not_comp (by simpa using notComp), exec_eq_of_not_comp (by simpa using notComp)]
  have length := (answer_commandOf_length c o P s.h1 s.h2).trans (answer_commandOf_length c o Q t.h1 t.h2).symm
  exact outcomesAgree_next (controlAgree_respond length h)

/-! ### A frame accepted, and the step -/

/-- The decoder looks at the opcode and the length: frames of one shape are rejected alike, or are one operation of one core. -/
theorem decode_of_sameShape {F G : Frame} (h : SameShape F G) :
    (∃ r, decode F = .rejected r ∧ decode G = .rejected r) ∨
      ∃ c o P Q, P.length = Q.length ∧ decode F = .ok (commandOf c o P) ∧ decode G = .ok (commandOf c o Q) := by
  obtain ⟨length, head⟩ := h
  cases F with
  | nil => exact .inl ⟨.illegal, rfl, by rw [List.eq_nil_of_length_eq_zero length.symm]; rfl⟩
  | cons b P =>
    cases G with
    | nil => cases head
    | cons d Q =>
      obtain rfl : b = d := Option.some.inj head
      have payload : P.length = Q.length := Nat.succ.inj length
      by_cases known : ∃ c o, b = opcode c o
      · obtain ⟨c, o, rfl⟩ := known
        rw [decode_opcode, decode_opcode]
        by_cases legal : LegalLength c o P.length
        · exact .inr ⟨c, o, P, Q, payload, decodePayload_of_legal legal, decodePayload_of_legal (payload ▸ legal)⟩
        · exact .inl ⟨_, decodePayload_of_not_legal legal, decodePayload_of_not_legal (payload ▸ legal)⟩
      · have reserved := (mem_opcodes_iff b).not.mpr known
        exact .inl ⟨.illegal, (decode_illegal_iff b P).mpr reserved, (decode_illegal_iff b Q).mpr reserved⟩

theorem acceptFrame_outcomesAgree {F G : Frame} (shape : SameShape F G) (h : ControlAgree s t) :
    OutcomesAgree (acceptFrame F s) (acceptFrame G t) := by
  rcases decode_of_sameShape shape with ⟨r, rejectF, rejectG⟩ | ⟨c, o, P, Q, payload, decodeF, decodeG⟩
  · rw [acceptFrame_rejected s rejectF, acceptFrame_rejected t rejectG]
    exact outcomesAgree_next (controlAgree_respond rfl h)
  · have ⟨_, _, _, _, _, _, grain, _⟩ := h
    by_cases comp : o = .comp
    · subst comp
      have number : (compOperand P).length = (compOperand Q).length := by
        rw [compOperand_length, compOperand_length, payload]
      cases hs : s.grain with
      | command =>
        rw [acceptFrame_command s decodeF (.inl hs), acceptFrame_command t decodeG (.inl (grain ▸ hs))]
        exact exec_comp_outcomesAgree c number h
      | phase =>
        rw [acceptFrame_start decodeF hs (compOf_commandOf_comp c P),
          acceptFrame_start decodeG (grain ▸ hs) (compOf_commandOf_comp c Q)]
        exact outcomesAgree_next (controlAgree_startComp c number h)
    · rw [acceptFrame_command s decodeF (.inr (compOf_commandOf_of_not_comp comp P)),
        acceptFrame_command t decodeG (.inr (compOf_commandOf_of_not_comp comp Q))]
      exact exec_not_comp_outcomesAgree comp P Q h

theorem step_eq_takeReset (due : s.resets.head? = some 0) : step s = .next (takeReset s) :=
  if_pos due

theorem step_outcomesAgree (h : ControlAgree s t) : OutcomesAgree (step s) (step t) := by
  have now : ControlAgree (countDown s) (countDown t) := controlAgree_countDown h
  have ⟨busy, _, _, _, _, resets, _, _, port, _⟩ := h
  by_cases due : s.resets.head? = some 0
  · rw [step_eq_takeReset due, step_eq_takeReset (resets ▸ due)]
    exact outcomesAgree_next (controlAgree_takeReset h)
  · have dueT : t.resets.head? ≠ some 0 := resets ▸ due
    cases hb : s.busy with
    | true =>
      rw [step_eq_busyStep due hb, step_eq_busyStep dueT (busy ▸ hb)]
      exact busyStep_outcomesAgree now
    | false =>
      have hbT : t.busy = false := busy ▸ hb
      generalize hs : s.port = Fs, ht : t.port = Gs at port
      cases port with
      | nil =>
        rw [step_eq_countDown due hb hs, step_eq_countDown dueT hbT ht]
        exact outcomesAgree_next now
      | cons shape shapes =>
        rw [step_eq_acceptFrame due hb hs, step_eq_acceptFrame dueT hbT ht]
        exact acceptFrame_outcomesAgree shape (controlAgree_takeFrame shapes now)

end

/-- Settles O52: what a step branches on agrees in the two states, and each branch leaves them in agreement. -/
theorem courseDependsOnShapesAlone : Obligations.CourseDependsOnShapesAlone :=
  fun _ _ s' agree next => step_outcomesAgree agree s' next

end Sys2Proof.Machine
end

section
/-! ### Frames rejected for their length (spec/60_exceptions.md R171, R173) -/

namespace Sys2Proof.Machine

/-- A frame rejected, but not as `illegal`, has an opcode byte of the map and a payload of a length R65 does not allow. -/
theorem wrong_length_of_decode_rejected {F : Frame} {r : Rejection} (rejected : decode F = .rejected r)
    (known : r ≠ .illegal) :
    ∃ c o P, F = opcode c o :: P ∧ ¬ LegalLength c o P.length ∧ r = lengthRejection c o := by
  rcases decode_cases F with ⟨c, o, P, rfl, payload⟩ | illegal
  · rw [payload] at rejected
    by_cases legal : LegalLength c o P.length
    · rw [decodePayload_of_legal legal] at rejected; cases rejected
    · rw [decodePayload_of_not_legal legal] at rejected
      exact ⟨c, o, P, rfl, legal, (Decoded.rejected.inj rejected).symm⟩
  · exact absurd (Decoded.rejected.inj (rejected.symm.trans illegal)) known

theorem errorOf_lengthRejection (c : Alg) (o : Op) :
    errorOf (lengthRejection c o) = if o = .comp then .invalidBlockLength else .invalidOperandLength := by
  cases o <;> rfl

theorem comp_opcode_iff (b : Byte) : b = 0x12 ∨ b = 0x22 ↔ ∃ c, b = opcode c .comp := by
  constructor
  · rintro (rfl | rfl)
    exacts [⟨.sha1, rfl⟩, ⟨.sha256, rfl⟩]
  · rintro ⟨c, rfl⟩
    cases c
    exacts [.inl rfl, .inr rfl]

/-- Settles O34: the length check of `COMP` is the only one that answers `InvalidBlockLength`. -/
theorem badBlockLengthChangesNothing : Obligations.BadBlockLengthChangesNothing := by
  refine ⟨fun s P b opcodes bytes => ?_, fun F r rejected cause => ?_⟩
  · obtain ⟨c, rfl⟩ := (comp_opcode_iff b).mp opcodes
    exact acceptFrame_wrong_length (o := .comp) s bytes
  · obtain ⟨c, o, P, rfl, bytes, rfl⟩ := wrong_length_of_decode_rejected rejected (by rintro rfl; cases cause)
    have comp : o = .comp := by simpa [errorOf_lengthRejection] using cause
    subst comp
    exact ⟨_, P, rfl, (comp_opcode_iff _).mpr ⟨c, rfl⟩, bytes⟩

/-- The frames R173 names, row by row, are those of a wrong length of every operation but `COMP`. -/
theorem wrong_operand_length_iff (b : Byte) (P : List Byte) :
    (b ∈ ([0x10, 0x13, 0x20, 0x23] : List Byte) ∧ P.length ≠ 0) ∨ (b = 0x11 ∧ P.length ≠ 20) ∨
      (b = 0x21 ∧ P.length ≠ 32) ↔ ∃ c o, b = opcode c o ∧ o ≠ .comp ∧ ¬ LegalLength c o P.length := by
  constructor
  · rintro (⟨opcodes, bytes⟩ | ⟨rfl, bytes⟩ | ⟨rfl, bytes⟩)
    · simp only [List.mem_cons, List.not_mem_nil, or_false] at opcodes
      rcases opcodes with rfl | rfl | rfl | rfl
      exacts [⟨.sha1, .init, rfl, nofun, bytes⟩, ⟨.sha1, .rdst, rfl, nofun, bytes⟩,
        ⟨.sha256, .init, rfl, nofun, bytes⟩, ⟨.sha256, .rdst, rfl, nofun, bytes⟩]
    · exact ⟨.sha1, .ldst, rfl, nofun, bytes⟩
    · exact ⟨.sha256, .ldst, rfl, nofun, bytes⟩
  · rintro ⟨c, o, rfl, notComp, bytes⟩
    cases o with
    | init | rdst => cases c <;> exact .inl ⟨by decide, bytes⟩
    | ldst =>
      cases c
      exacts [.inr (.inl ⟨rfl, bytes⟩), .inr (.inr ⟨rfl, bytes⟩)]
    | comp => exact absurd rfl notComp

/-- Settles O36: the length checks of the other operations are the only ones that answer `InvalidOperandLength`. -/
theorem badOperandLengthChangesNothing : Obligations.BadOperandLengthChangesNothing := by
  refine ⟨fun s P b wrong => ?_, fun F r rejected cause => ?_⟩
  · obtain ⟨c, o, rfl, notComp, bytes⟩ := (wrong_operand_length_iff b P).mp wrong
    rw [acceptFrame_wrong_length s bytes, errorOf_lengthRejection, if_neg notComp]
    rfl
  · obtain ⟨c, o, P, rfl, bytes, rfl⟩ := wrong_length_of_decode_rejected rejected (by rintro rfl; cases cause)
    have notComp : o ≠ .comp := by simpa [errorOf_lengthRejection] using cause
    exact ⟨_, P, rfl, (wrong_operand_length_iff _ P).mpr ⟨c, o, rfl, notComp, bytes⟩⟩

end Sys2Proof.Machine
end

section
/-! ### RESET, and frames held while busy (spec/70_reset_and_hazards.md R195 to R197, R200) -/

namespace Sys2Proof.Machine

/-- No row of R119 or R149 touches the port, and none that leaves the block busy touches the blocks or the core at work. -/
theorem busyCase_holds {s t : State} (hc : BusyCase s t) :
    t.port = s.port ∧ (t.busy = true → t.blocks = s.blocks ∧ t.alg = s.alg) := by
  cases hc with
  | load1 _ _ _ next | load2 _ _ _ next | round1 _ _ _ _ next | round2 _ _ _ _ next | fold1 _ _ _ next
  | fold2 _ _ _ next => subst next; exact ⟨rfl, fun _ => ⟨rfl, rfl⟩⟩
  | done _ _ next => subst next; exact ⟨rfl, nofun⟩

/-- A busy block becomes idle by DONE alone (R119, R149). -/
theorem done_of_busyCase_idle {s t : State} (busy : s.busy = true) (hc : BusyCase s t) (idle : t.busy = false) :
    s.phase = .awaitingBlock ∧ s.j = s.blocks.length ∧ t = doneComp s := by
  cases hc with
  | load1 _ _ _ next | load2 _ _ _ next | round1 _ _ _ _ next | round2 _ _ _ _ next | fold1 _ _ _ next
  | fold2 _ _ _ next => subst next; cases busy.symm.trans idle
  | done phase last next => exact ⟨phase, last, next⟩

/-- Settles O39: while busy a step is a row of the sequencer; all but DONE leave the block busy and silent. -/
theorem framesAreHeldWhileBusy : Obligations.FramesAreHeldWhileBusy := by
  intro s t busy notDue h
  have row : BusyCase (countDown s) t := busyCase_of_step busy notDue h
  obtain ⟨port, held⟩ := busyCase_holds row
  refine ⟨port, fun busyT => ?_, fun idleT => ?_⟩
  · obtain ⟨blocks, alg⟩ := held busyT
    obtain ⟨silent, -⟩ := busyCase_silent row busyT
    exact ⟨blocks, alg, silent⟩
  · obtain ⟨phase, last, rfl⟩ := done_of_busyCase_idle (s := countDown s) busy row idleT
    exact ⟨phase, last, rfl⟩

/-- Settles O41: a RESET that is due strikes before anything else, and `takeReset` draws the state files anew. -/
theorem resetAbandonsTheCommand : Obligations.ResetAbandonsTheCommand := by
  intro s due
  refine ⟨takeReset s, step_eq_takeReset due, rfl, rfl, rfl, rfl, rfl, fun i hi => ?_, fun i hi => ?_⟩
  · exact Vector.getElem_ofFn hi
  · exact Vector.getElem_ofFn hi

end Sys2Proof.Machine
end

section
/-! ### A message in any division among `COMP` commands (spec/70_reset_and_hazards.md R198, R199) -/

namespace Sys2Proof.Machine

/-- The frames that digest a message on core `c`: `INIT`, a `COMP` for each of the payloads `Ps`, `RDST` (R198). -/
def messageFrames (c : Alg) (Ps : List (List Byte)) : List Frame :=
  [opcode c .init] :: (Ps.map (opcode c .comp :: ·) ++ [[opcode c .rdst]])

theorem messageFrames_length (c : Alg) (Ps : List (List Byte)) : (messageFrames c Ps).length = Ps.length + 2 := by
  simp [messageFrames]

/-- The view after `COMP` frames of whole blocks: one `OK` each, and the compression by all the blocks in order. -/
theorem foldl_afterFrame_sha1Comp (Ps : List (List Byte)) (whole : ∀ P ∈ Ps, P.length % 64 = 0) (v : HostView) :
    (Ps.map (opcode .sha1 .comp :: ·)).foldl afterFrame v =
      ⟨sha1Compress v.h1 (compOperand Ps.flatten), v.h2, v.responses ++ List.replicate Ps.length [statusOk]⟩ := by
  induction Ps generalizing v with
  | nil => simp [compOperand, sha1Compress]
  | cons P Ps ih =>
    obtain ⟨wholeP, wholePs⟩ := List.forall_mem_cons.mp whole
    rw [List.map_cons, List.foldl_cons, afterFrame_sha1Comp, if_pos wholeP, ih wholePs, List.flatten_cons,
      compOperand_append P _ wholeP, sha1Compress_append]
    simp [List.replicate_succ]

/-- The same on core SHA256. -/
theorem foldl_afterFrame_sha256Comp (Ps : List (List Byte)) (whole : ∀ P ∈ Ps, P.length % 64 = 0) (v : HostView) :
    (Ps.map (opcode .sha256 .comp :: ·)).foldl afterFrame v =
      ⟨v.h1, sha256Compress v.h2 (compOperand Ps.flatten), v.responses ++ List.replicate Ps.length [statusOk]⟩ := by
  induction Ps generalizing v with
  | nil => simp [compOperand, sha256Compress]
  | cons P Ps ih =>
    obtain ⟨wholeP, wholePs⟩ := List.forall_mem_cons.mp whole
    rw [List.map_cons, List.foldl_cons, afterFrame_sha256Comp, if_pos wholeP, ih wholePs, List.flatten_cons,
      compOperand_append P _ wholeP, sha256Compress_append]
    simp [List.replicate_succ]

/-- The `OK` of a first command, then those of `n` more. -/
theorem append_ok_replicate (Rs : List Frame) (n : Nat) :
    Rs ++ [[statusOk]] ++ List.replicate n [statusOk] = Rs ++ List.replicate (n + 1) [statusOk] := by
  rw [List.append_assoc, List.singleton_append, List.replicate_succ]

theorem responses_after_sha1Message (Ps : List (List Byte)) (whole : ∀ P ∈ Ps, P.length % 64 = 0) (v : HostView) :
    ((messageFrames .sha1 Ps).foldl afterFrame v).responses = v.responses ++ List.replicate (Ps.length + 1) [statusOk] ++
      [statusOk :: (sha1Compress iv1 (compOperand Ps.flatten)).toList.flatMap be32] := by
  rw [messageFrames, List.foldl_cons, List.foldl_append, afterFrame_sha1Init, foldl_afterFrame_sha1Comp Ps whole,
    List.foldl_cons, List.foldl_nil, afterFrame_sha1Rdst, append_ok_replicate]

theorem responses_after_sha256Message (Ps : List (List Byte)) (whole : ∀ P ∈ Ps, P.length % 64 = 0) (v : HostView) :
    ((messageFrames .sha256 Ps).foldl afterFrame v).responses = v.responses ++ List.replicate (Ps.length + 1) [statusOk] ++
      [statusOk :: (sha256Compress iv2 (compOperand Ps.flatten)).toList.flatMap be32] := by
  rw [messageFrames, List.foldl_cons, List.foldl_append, afterFrame_sha256Init, foldl_afterFrame_sha256Comp Ps whole,
    List.foldl_cons, List.foldl_nil, afterFrame_sha256Rdst, append_ok_replicate]

/-- A message's frames at a ready block are run one step each; what is sent is what the view says. -/
theorem run_messageFrames {c : Alg} {Ps : List (List Byte)} {rest : List Frame} {s : State} (ready : Ready s)
    (grain : s.grain = .command)
    (port : s.port = [opcode c .init] :: (Ps.map (opcode c .comp :: ·) ++ [opcode c .rdst] :: rest)) :
    ∃ t : State, Host.Core.run Sys2Proof.core (Ps.length + 2) s = .next t ∧ t.port = rest ∧
      t.responses = ((messageFrames c Ps).foldl afterFrame (viewOf s)).responses := by
  have offered : ReadyFor (messageFrames c Ps ++ rest) s := ⟨ready, grain, by simp [port, messageFrames]⟩
  obtain ⟨t, ran, readyT, view⟩ := run_readyFor _ rest offered
  exact ⟨t, messageFrames_length c Ps ▸ ran, readyT.port, congrArg HostView.responses view⟩

/-- Settles O55: `INIT` forgets the state before, and compression by the parts in turn is compression by the whole. -/
theorem divisionOfAMessageDoesNotMatter : Obligations.DivisionOfAMessageDoesNotMatter := by
  intro s Ps rest ready grain whole
  constructor
  · intro port
    obtain ⟨t, ran, portT, sent⟩ := run_messageFrames (c := .sha1) ready grain port
    exact ⟨t, ran, portT, sent.trans (responses_after_sha1Message Ps whole (viewOf s))⟩
  · intro port
    obtain ⟨t, ran, portT, sent⟩ := run_messageFrames (c := .sha256) ready grain port
    exact ⟨t, ran, portT, sent.trans (responses_after_sha256Message Ps whole (viewOf s))⟩

end Sys2Proof.Machine
end
